-- ==== Sys2Proof/Word.lean ====
section
/-! DEFINITION. The widths of the CHIP-8 core's values (spec/00_scope.md R5, R11, R12) and the layout of
an instruction word into nibble-aligned fields (spec/30_encoding.md R70). Every value is unsigned and
`BitVec` arithmetic is reduction modulo a power of two, as R12 says. -/

namespace Sys2Proof

/-- An 8-bit value: a variable register, a timer, a byte of memory, the field KK. -/
abbrev Byte := BitVec 8

/-- A 16-bit value: PC, I, IR, a stack entry, an instruction word. -/
abbrev Word := BitVec 16

/-- A 4-bit field of an instruction word (R70). -/
abbrev Nibble := BitVec 4

/-- The index of a variable register, V0 to VF (R20). -/
abbrev Reg := BitVec 4

/-- The 12-bit immediate address NNN (R70). -/
abbrev Addr12 := BitVec 12

/-- VF, which is both a general register and the flag output (R21). -/
abbrev regVF : Reg := 0xF#4

/-- V0, the register that the legacy jump with offset uses (R117). -/
abbrev regV0 : Reg := 0x0#4

end Sys2Proof
end

