-- ==== Sys2Proof/Syntax.lean ====
section
/-! DEFINITION. The instructions, one constructor per row of spec/opcode_table.json: the 31 instructions of
spec/30_encoding.md R73 and the 12 halting rows of R75. A constructor carries the row's free fields;
BNNN carries NNN alone, whose top nibble is the row's X. A halting row carries the bits it leaves open,
so that encoding loses nothing. -/

namespace Sys2Proof

/-- The causes HALT_CAUSE can hold (R33, R200). -/
inductive HaltCause where
  /-- Code 0: the core has not halted. -/
  | none
  /-- Code 1: the word selects no instruction (R201). -/
  | decode
  /-- Code 2: 5XYn or 9XYn with n ≠ 0 (R202). -/
  | malformedSkip
  /-- Code 3: CALL with 16 entries on the stack (R203). -/
  | stackOverflow
  /-- Code 4: RET with an empty stack (R204). -/
  | stackUnderflow
  /-- Code 5: an access at 4096 or above under ADDR_POLICY = FAULT (R205). -/
  | addressFault
  deriving DecidableEq, Repr

/-- The 3-bit code of a halt cause (R33). -/
def HaltCause.code : HaltCause → BitVec 3
  | .none => 0
  | .decode => 1
  | .malformedSkip => 2
  | .stackOverflow => 3
  | .stackUnderflow => 4
  | .addressFault => 5

/-- One constructor per row of spec/opcode_table.json. -/
inductive Instr where
  /-- 00E0 CLS (R160). -/
  | cls
  /-- 00EE RET (R110). -/
  | ret
  /-- 1NNN JP addr (R111). -/
  | jp (nnn : Addr12)
  /-- 2NNN CALL addr (R112). -/
  | call (nnn : Addr12)
  /-- 3XKK SE Vx, byte (R113). -/
  | seByte (x : Reg) (kk : Byte)
  /-- 4XKK SNE Vx, byte (R114). -/
  | sneByte (x : Reg) (kk : Byte)
  /-- 5XY0 SE Vx, Vy (R115). -/
  | seReg (x y : Reg)
  /-- 6XKK LD Vx, byte (R130). -/
  | ldByte (x : Reg) (kk : Byte)
  /-- 7XKK ADD Vx, byte (R131). -/
  | addByte (x : Reg) (kk : Byte)
  /-- 8XY0 LD Vx, Vy (R132). -/
  | ldReg (x y : Reg)
  /-- 8XY1 OR Vx, Vy (R133). -/
  | orReg (x y : Reg)
  /-- 8XY2 AND Vx, Vy (R134). -/
  | andReg (x y : Reg)
  /-- 8XY3 XOR Vx, Vy (R135). -/
  | xorReg (x y : Reg)
  /-- 8XY4 ADD Vx, Vy (R136). -/
  | addReg (x y : Reg)
  /-- 8XY5 SUB Vx, Vy (R137). -/
  | subReg (x y : Reg)
  /-- 8XY6 SHR Vx, Vy (R138). -/
  | shr (x y : Reg)
  /-- 8XY7 SUBN Vx, Vy (R139). -/
  | subnReg (x y : Reg)
  /-- 8XYE SHL Vx, Vy (R140). -/
  | shl (x y : Reg)
  /-- 9XY0 SNE Vx, Vy (R116). -/
  | sneReg (x y : Reg)
  /-- ANNN LD I, addr (R180). -/
  | ldI (nnn : Addr12)
  /-- BNNN JP V0, addr or JP Vx, addr, where X is the top nibble of NNN (R117). -/
  | jpOffset (nnn : Addr12)
  /-- CXKK RND Vx, byte (R141). -/
  | rnd (x : Reg) (kk : Byte)
  /-- DXYN DRW Vx, Vy, nibble (R161). -/
  | drw (x y : Reg) (n : Nibble)
  /-- FX07 LD Vx, DT (R181). -/
  | ldVxDt (x : Reg)
  /-- FX15 LD DT, Vx (R182). -/
  | ldDtVx (x : Reg)
  /-- FX18 LD ST, Vx (R183). -/
  | ldStVx (x : Reg)
  /-- FX1E ADD I, Vx (R184). -/
  | addI (x : Reg)
  /-- FX29 LD F, Vx (R185). -/
  | ldF (x : Reg)
  /-- FX33 LD B, Vx (R186). -/
  | ldB (x : Reg)
  /-- FX55 LD [I], Vx (R187). -/
  | storeRegs (x : Reg)
  /-- FX65 LD Vx, [I] (R188). -/
  | loadRegs (x : Reg)
  /-- 0NNN other than 00E0 and 00EE: the system-call family, which halts DECODE (R75). -/
  | sysHalt (nnn : Addr12)
  /-- 5XYn with n ≠ 0, which halts MALFORMED_SKIP (R75). -/
  | malformedSe (x y : Reg) (n : Nibble)
  /-- 8XY8, which halts DECODE (R75). -/
  | unmatched8 (x y : Reg)
  /-- 8XY9, which halts DECODE (R75). -/
  | unmatched9 (x y : Reg)
  /-- 8XYA, which halts DECODE (R75). -/
  | unmatchedA (x y : Reg)
  /-- 8XYB, which halts DECODE (R75). -/
  | unmatchedB (x y : Reg)
  /-- 8XYC, which halts DECODE (R75). -/
  | unmatchedC (x y : Reg)
  /-- 8XYD, which halts DECODE (R75). -/
  | unmatchedD (x y : Reg)
  /-- 8XYF, which halts DECODE (R75). -/
  | unmatchedF (x y : Reg)
  /-- 9XYn with n ≠ 0, which halts MALFORMED_SKIP (R75). -/
  | malformedSne (x y : Reg) (n : Nibble)
  /-- EXKK: every word of family E halts DECODE (R75). -/
  | familyE (x : Reg) (kk : Byte)
  /-- FXKK with KK not in 07, 15, 18, 1E, 29, 33, 55, 65, which halts DECODE (R75). -/
  | familyF (x : Reg) (kk : Byte)
  deriving DecidableEq, Repr

/-- The halt cause that decoding gives a halting row; `none` for the 31 instructions (R75, R78). -/
def Instr.haltCause : Instr → Option HaltCause
  | .sysHalt _ | .unmatched8 _ _ | .unmatched9 _ _ | .unmatchedA _ _ | .unmatchedB _ _
  | .unmatchedC _ _ | .unmatchedD _ _ | .unmatchedF _ _ | .familyE _ _ | .familyF _ _ => some .decode
  | .malformedSe _ _ _ | .malformedSne _ _ _ => some .malformedSkip
  | .cls | .ret | .jp _ | .call _ | .seByte _ _ | .sneByte _ _ | .seReg _ _ | .ldByte _ _
  | .addByte _ _ | .ldReg _ _ | .orReg _ _ | .andReg _ _ | .xorReg _ _ | .addReg _ _ | .subReg _ _
  | .shr _ _ | .subnReg _ _ | .shl _ _ | .sneReg _ _ | .ldI _ | .jpOffset _ | .rnd _ _ | .drw _ _ _
  | .ldVxDt _ | .ldDtVx _ | .ldStVx _ | .addI _ | .ldF _ | .ldB _ | .storeRegs _ | .loadRegs _ => none

end Sys2Proof
end

