-- ==== Sys2Proof/WellFormed.lean ====
section
/-! DEFINITION. Which terms of `Instr` some word decodes to. The field types bound every operand, so only the
halting catch-alls of spec/30_encoding.md R78 need a check: each leaves out the words that an
instruction row takes first. -/

namespace Sys2Proof

/-- The last bytes that select an instruction of family F (R73, R75). -/
def familyFSelectors : List Byte := [0x07, 0x15, 0x18, 0x1E, 0x29, 0x33, 0x55, 0x65]

/-- The instruction is one that decoding can give (R75, R78). -/
def Instr.wellFormed : Instr → Bool
  | .sysHalt nnn => nnn != 0x0E0 && nnn != 0x0EE
  | .malformedSe _ _ n => n != 0
  | .malformedSne _ _ n => n != 0
  | .familyF _ kk => !familyFSelectors.contains kk
  | .cls | .ret | .jp _ | .call _ | .seByte _ _ | .sneByte _ _ | .seReg _ _ | .ldByte _ _
  | .addByte _ _ | .ldReg _ _ | .orReg _ _ | .andReg _ _ | .xorReg _ _ | .addReg _ _ | .subReg _ _
  | .shr _ _ | .subnReg _ _ | .shl _ _ | .sneReg _ _ | .ldI _ | .jpOffset _ | .rnd _ _ | .drw _ _ _
  | .ldVxDt _ | .ldDtVx _ | .ldStVx _ | .addI _ | .ldF _ | .ldB _ | .storeRegs _ | .loadRegs _
  | .unmatched8 _ _ | .unmatched9 _ _ | .unmatchedA _ _ | .unmatchedB _ _ | .unmatchedC _ _
  | .unmatchedD _ _ | .unmatchedF _ _ | .familyE _ _ => true

end Sys2Proof
end

