-- ==== Sys2Proof/Decode.lean ====
section
/-! DEFINITION. Decoding and encoding: the fields of an instruction word (spec/30_encoding.md R70), `decode` as a
total function of the 16-bit word (R78), the byte order of a fetched word (spec/20_memory.md R53) and
the encoder, written from the same table (R73, R75). Every word is an instruction or a halting row, so
`decode` refuses nothing; `decodeBytes` refuses, by name, fewer than two bytes. -/

namespace Sys2Proof

/-- F = word[15:12], the family (R70). -/
def fieldF (w : Word) : Nibble := w.extractLsb' 12 4
/-- X = word[11:8] (R70). -/
def fieldX (w : Word) : Reg := w.extractLsb' 8 4
/-- Y = word[7:4] (R70). -/
def fieldY (w : Word) : Reg := w.extractLsb' 4 4
/-- N = word[3:0] (R70). -/
def fieldN (w : Word) : Nibble := w.extractLsb' 0 4
/-- KK = word[7:0] (R70). -/
def fieldKK (w : Word) : Byte := w.extractLsb' 0 8
/-- NNN = word[11:0] (R70). -/
def fieldNNN (w : Word) : Addr12 := w.extractLsb' 0 12

/-- The word of a family with a 12-bit immediate (R70). -/
def wordNNN (f : Nibble) (nnn : Addr12) : Word := f ++ nnn
/-- The word of a family with a register and a byte (R70). -/
def wordXKK (f : Nibble) (x : Reg) (kk : Byte) : Word := f ++ x ++ kk
/-- The word of a family with two registers and a nibble (R70). -/
def wordXYN (f : Nibble) (x y : Reg) (n : Nibble) : Word := f ++ x ++ y ++ n

/-- Family 8: the selector is N (R73, R74). -/
def decodeFamily8 (x y : Reg) (n : Nibble) : Instr :=
  match n with
  | 0x0#4 => .ldReg x y
  | 0x1#4 => .orReg x y
  | 0x2#4 => .andReg x y
  | 0x3#4 => .xorReg x y
  | 0x4#4 => .addReg x y
  | 0x5#4 => .subReg x y
  | 0x6#4 => .shr x y
  | 0x7#4 => .subnReg x y
  | 0x8#4 => .unmatched8 x y
  | 0x9#4 => .unmatched9 x y
  | 0xA#4 => .unmatchedA x y
  | 0xB#4 => .unmatchedB x y
  | 0xC#4 => .unmatchedC x y
  | 0xD#4 => .unmatchedD x y
  | 0xE#4 => .shl x y
  | _ => .unmatchedF x y

/-- Family F: the selector is KK (R73, R74). -/
def decodeFamilyF (x : Reg) (kk : Byte) : Instr :=
  match kk with
  | 0x07#8 => .ldVxDt x
  | 0x15#8 => .ldDtVx x
  | 0x18#8 => .ldStVx x
  | 0x1E#8 => .addI x
  | 0x29#8 => .ldF x
  | 0x33#8 => .ldB x
  | 0x55#8 => .storeRegs x
  | 0x65#8 => .loadRegs x
  | kk => .familyF x kk

/-- Family 0: only the exact words 00E0 and 00EE select an instruction (R74, decision D6). -/
def decodeFamily0 (nnn : Addr12) : Instr :=
  if nnn = 0x0E0 then .cls else if nnn = 0x0EE then .ret else .sysHalt nnn

/-- `decode(w)` (R78): total, one instruction or one halting row per word. -/
def decode (w : Word) : Instr :=
  let x := fieldX w
  let y := fieldY w
  let n := fieldN w
  let kk := fieldKK w
  let nnn := fieldNNN w
  match fieldF w with
  | 0x0#4 => decodeFamily0 nnn
  | 0x1#4 => .jp nnn
  | 0x2#4 => .call nnn
  | 0x3#4 => .seByte x kk
  | 0x4#4 => .sneByte x kk
  | 0x5#4 => if n = 0 then .seReg x y else .malformedSe x y n
  | 0x6#4 => .ldByte x kk
  | 0x7#4 => .addByte x kk
  | 0x8#4 => decodeFamily8 x y n
  | 0x9#4 => if n = 0 then .sneReg x y else .malformedSne x y n
  | 0xA#4 => .ldI nnn
  | 0xB#4 => .jpOffset nnn
  | 0xC#4 => .rnd x kk
  | 0xD#4 => .drw x y n
  | 0xE#4 => .familyE x kk
  | _ => decodeFamilyF x kk

/-- The word that two fetched bytes make: big-endian, the first byte is the high one (R53). -/
def wordOfBytes (hi lo : Byte) : Word := hi ++ lo

/-- The byte at the lower address of a stored word (R53). -/
def highByte (w : Word) : Byte := w.extractLsb' 8 8

/-- The byte at the higher address of a stored word (R53). -/
def lowByte (w : Word) : Byte := w.extractLsb' 0 8

/-- Why a list of bytes is no instruction. -/
inductive DecodeError where
  /-- Fewer than the two bytes that every instruction takes (R72). Safe: nothing runs. -/
  | truncated
  deriving DecidableEq, Repr

/-- Decode the first instruction of a list of bytes and give the bytes after it (R53, R72). -/
def decodeBytes : List Byte → Except DecodeError (Instr × List Byte)
  | hi :: lo :: rest => .ok (decode (wordOfBytes hi lo), rest)
  | [_] => .error .truncated
  | [] => .error .truncated

/-- The word of an instruction, from the table of R73 and R75. -/
def encode : Instr → Word
  | .cls => 0x00E0
  | .ret => 0x00EE
  | .jp nnn => wordNNN 0x1 nnn
  | .call nnn => wordNNN 0x2 nnn
  | .seByte x kk => wordXKK 0x3 x kk
  | .sneByte x kk => wordXKK 0x4 x kk
  | .seReg x y => wordXYN 0x5 x y 0x0
  | .ldByte x kk => wordXKK 0x6 x kk
  | .addByte x kk => wordXKK 0x7 x kk
  | .ldReg x y => wordXYN 0x8 x y 0x0
  | .orReg x y => wordXYN 0x8 x y 0x1
  | .andReg x y => wordXYN 0x8 x y 0x2
  | .xorReg x y => wordXYN 0x8 x y 0x3
  | .addReg x y => wordXYN 0x8 x y 0x4
  | .subReg x y => wordXYN 0x8 x y 0x5
  | .shr x y => wordXYN 0x8 x y 0x6
  | .subnReg x y => wordXYN 0x8 x y 0x7
  | .shl x y => wordXYN 0x8 x y 0xE
  | .sneReg x y => wordXYN 0x9 x y 0x0
  | .ldI nnn => wordNNN 0xA nnn
  | .jpOffset nnn => wordNNN 0xB nnn
  | .rnd x kk => wordXKK 0xC x kk
  | .drw x y n => wordXYN 0xD x y n
  | .ldVxDt x => wordXKK 0xF x 0x07
  | .ldDtVx x => wordXKK 0xF x 0x15
  | .ldStVx x => wordXKK 0xF x 0x18
  | .addI x => wordXKK 0xF x 0x1E
  | .ldF x => wordXKK 0xF x 0x29
  | .ldB x => wordXKK 0xF x 0x33
  | .storeRegs x => wordXKK 0xF x 0x55
  | .loadRegs x => wordXKK 0xF x 0x65
  | .sysHalt nnn => wordNNN 0x0 nnn
  | .malformedSe x y n => wordXYN 0x5 x y n
  | .unmatched8 x y => wordXYN 0x8 x y 0x8
  | .unmatched9 x y => wordXYN 0x8 x y 0x9
  | .unmatchedA x y => wordXYN 0x8 x y 0xA
  | .unmatchedB x y => wordXYN 0x8 x y 0xB
  | .unmatchedC x y => wordXYN 0x8 x y 0xC
  | .unmatchedD x y => wordXYN 0x8 x y 0xD
  | .unmatchedF x y => wordXYN 0x8 x y 0xF
  | .malformedSne x y n => wordXYN 0x9 x y n
  | .familyE x kk => wordXKK 0xE x kk
  | .familyF x kk => wordXKK 0xF x kk

/-- The bytes of an instruction as the hardware stores them, the high byte at the lower address (R53). -/
def encodeBytes (i : Instr) : List Byte := [highByte (encode i), lowByte (encode i)]

/-- The 16-bit word whose bits, numbered as spec/opcode_table.json numbers them, are the low `nbits` bits of
`w`; every bit above is 0. -/
def tableWord (nbits w : Nat) : Word := BitVec.ofNat 16 (w % 2 ^ nbits)

/-- The instruction the decoder reads from the bytes of a table word, laid out as the hardware stores them. -/
def decodeTableWord (nbits w : Nat) : Option Instr :=
  match decodeBytes [highByte (tableWord nbits w), lowByte (tableWord nbits w)] with
  | .ok (i, _) => some i
  | .error _ => none

end Sys2Proof
end

