-- ==== Sys2Proof/Config.lean ====
section
/-! DEFINITION. What an implementation fixes and the free values. The constants are those of
spec/00_scope.md R5; the free values (`Config.rnd`, `Config.tickSchedule`) and the two rates no rule reads
are opaque, so no proof can know what they are; of the tick schedule a proof knows its fairness. The launch parameters that the host picks (LEGACY_MODE,
ADDR_POLICY, FONT_TABLE, ROM) are in the state: see Machine/State.lean. -/

namespace Sys2Proof

/-- MEM_SIZE, the number of bytes of memory (R5, R50). -/
abbrev Config.memSize : Nat := 4096

/-- FONT_BASE, the address of the font table (R5, R57). -/
abbrev Config.fontBase : Nat := 0x050

/-- FONT_GLYPH_SIZE, the bytes of one glyph (R5). -/
abbrev Config.glyphSize : Nat := 5

/-- The bytes of the font table, 16 glyphs of 5 bytes (R5, R9). -/
abbrev Config.fontSize : Nat := 80

/-- PROG_BASE, the reset PC and the address where the ROM is loaded (R5, R57). -/
abbrev Config.progBase : Nat := 0x200

/-- The longest ROM that fits above PROG_BASE (R10, R231). -/
abbrev Config.maxRom : Nat := 3584

/-- FB_WIDTH and FB_HEIGHT (R5, R30). -/
abbrev Config.fbWidth : Nat := 64

@[inherit_doc Config.fbWidth] abbrev Config.fbHeight : Nat := 32

/-- STACK_DEPTH (R5, R26). -/
abbrev Config.stackDepth : Nat := 16

/-- The random source RND (R141, decision D20): the byte that the n-th execution of CXKK draws. A free
value, under no law (log entry 8). -/
opaque Config.rnd : Nat → Byte

/-- A tick schedule that the timer clock may follow (R213, decision D18): at which cycle boundaries its strobe
is up, free but for fairness. The default values only show that there is such a schedule. -/
structure TickSchedule where
  /-- The strobe TICK at the n-th boundary where it is sampled. -/
  strobe : Nat → Bool := fun _ => true
  /-- Fairness: the strobe comes again after every boundary (R213, R237; log entry 7). -/
  fair : ∀ n, ∃ m, n ≤ m ∧ strobe m = true := by exact fun n => ⟨n, Nat.le_refl n, rfl⟩
  deriving Inhabited

/-- The schedule of the timer clock (R213): whether a boundary takes a tick is fixed by no architectural
state. A free value, of which only fairness is known (log entries 6 and 7). -/
opaque Config.tickSchedule : TickSchedule

/-- The strobe TICK at the n-th cycle boundary where it is sampled (R212, R217). -/
def Config.tick (n : Nat) : Bool := Config.tickSchedule.strobe n

/-- Parameter TIMER_HZ (R8): the timer clock's rate. No rule of the spec reads it (log entry 17). -/
opaque Config.timerHz : Nat

/-- Parameter INSTR_HZ (R8): the instruction clock's rate. No rule of the spec reads it (log entry 17). -/
opaque Config.instrHz : Nat

/-- The conventional font, the default value of FONT_TABLE (R63). PRESUMED: the spec marks these bytes
as general knowledge (log entry 2). -/
def Config.conventionalFontBytes : List Byte :=
  [0xF0, 0x90, 0x90, 0x90, 0xF0] ++ [0x20, 0x60, 0x20, 0x20, 0x70] ++
  [0xF0, 0x10, 0xF0, 0x80, 0xF0] ++ [0xF0, 0x10, 0xF0, 0x10, 0xF0] ++
  [0x90, 0x90, 0xF0, 0x10, 0x10] ++ [0xF0, 0x80, 0xF0, 0x10, 0xF0] ++
  [0xF0, 0x80, 0xF0, 0x90, 0xF0] ++ [0xF0, 0x10, 0x20, 0x40, 0x40] ++
  [0xF0, 0x90, 0xF0, 0x90, 0xF0] ++ [0xF0, 0x90, 0xF0, 0x10, 0xF0] ++
  [0xF0, 0x90, 0xF0, 0x90, 0x90] ++ [0xE0, 0x90, 0xE0, 0x90, 0xE0] ++
  [0xF0, 0x80, 0x80, 0x80, 0xF0] ++ [0xE0, 0x90, 0x90, 0x90, 0xE0] ++
  [0xF0, 0x80, 0xF0, 0x80, 0xF0] ++ [0xF0, 0x80, 0xF0, 0x80, 0x80]

@[inherit_doc Config.conventionalFontBytes]
def Config.conventionalFont : Vector Byte Config.fontSize :=
  ⟨Config.conventionalFontBytes.toArray, rfl⟩

end Sys2Proof
end

