-- ==== Sys2Proof/Machine/State.lean ====
section
/-! DEFINITION. The machine's state as plain data: every piece of state of spec/10_state.md and the memory of
spec/20_memory.md R50, the launch and run inputs of spec/60_exceptions.md R217, and two counters of the
model's own that say which free value comes next. With them the ways a step or a host move can stop,
and the state after reset (10_state.md R37, 70_reset_and_hazards.md R230). -/

namespace Sys2Proof.Machine

/-- The FSM register (R31). 0b11 is never entered, so it is no constructor. -/
inductive Fsm where
  /-- FETCH: a cycle boundary. -/
  | fetch
  /-- EXECUTE: IR holds a word that has not been executed. -/
  | execute
  /-- HALTED: terminal (R95). -/
  | halted
  deriving DecidableEq, Repr

/-- The 2-bit encoding of the FSM register (R31). -/
def Fsm.code : Fsm → BitVec 2
  | .fetch => 0b00
  | .execute => 0b01
  | .halted => 0b10

/-- Parameter ADDR_POLICY (R7): what address overflow does (R51). -/
inductive AddrPolicy where
  /-- WRAP: the address is reduced modulo 4096. -/
  | wrap
  /-- FAULT: the core halts with ADDRESS_FAULT. -/
  | fault
  deriving DecidableEq, Repr

/-- The framebuffer, 32 rows of 64 Boolean cells, row 0 at the top and column 0 at the left (R30). -/
abbrev Framebuffer := Vector (Vector Bool Config.fbWidth) Config.fbHeight

/-- Every cell false (R37, R160). -/
def Framebuffer.blank : Framebuffer := Vector.replicate _ (Vector.replicate _ false)

/-- The launch inputs, which hold one value for the whole run and which reset keeps (R35, R217, R230). -/
structure Launch where
  /-- LEGACY_MODE: true is the COSMAC behaviour, false the modern one (R6). -/
  legacyMode : Bool
  /-- ADDR_POLICY (R7). -/
  addrPolicy : AddrPolicy
  /-- FONT_TABLE (R9, R63). -/
  fontTable : Vector Byte Config.fontSize
  /-- ROM (R10); `none` when no ROM argument is given (R231). -/
  rom : Option (List Byte)
  deriving DecidableEq, Repr

/-- The launch inputs that `State.reset` stands for: modern, WRAP, the conventional font, no ROM. DESIGN
CHOICE (log entry 1) and, for the font, PRESUMED (log entry 2). Every statement about a state holds
for every value of them. -/
def Launch.default : Launch :=
  { legacyMode := false, addrPolicy := .wrap, fontTable := Config.conventionalFont, rom := none }

/-- The state of the core and of the inputs it reads. -/
structure State where
  /-- V[0] to V[15], V[15] being VF (R20, R21). -/
  v : Vector Byte 16
  /-- The program counter (R22). -/
  pc : Word
  /-- The index register I (R25). -/
  i : Word
  /-- The return stack STK[0] to STK[15] (R26). -/
  stk : Vector Word Config.stackDepth
  /-- SP, the number of entries on the stack, 0 to 16 (R26). -/
  sp : Fin (Config.stackDepth + 1)
  /-- DT, the delay timer (R28). -/
  dt : Byte
  /-- ST, the sound timer (R29). -/
  st : Byte
  /-- FB, the framebuffer (R30). -/
  fb : Framebuffer
  /-- MEM, as the bytes that differ from what an unlisted address reads as (R50, Machine/Memory.lean). -/
  mem : List Host.Cell
  /-- The FSM register (R31). -/
  fsm : Fsm
  /-- IR, the opcode latch (R32). -/
  ir : Word
  /-- HALT_CAUSE (R33). -/
  haltCause : HaltCause
  /-- TICKED: a tick has been applied at this cycle boundary (R34). -/
  ticked : Bool
  /-- The launch inputs (R35). -/
  launch : Launch
  /-- RUN_EN, the host's run enable (R91, R217). -/
  runEn : Bool
  /-- TICK, the timer clock's strobe for the coming boundary (R212, R217; log entry 6). -/
  tickStrobe : Bool
  /-- The model's own counter: the next free value of `Config.tick` (log entry 6). -/
  tickDraws : Nat
  /-- The model's own counter: the next free value of `Config.rnd` (log entry 8). -/
  rndDraws : Nat
  deriving DecidableEq, Repr

/-- Why a step ends in a fault: never. Every exceptional event of this core is a halt (R200), whose effect
the spec gives (R94), so it is a next state with FSM = HALTED (log entry 18). Nobody raises a fault. -/
inductive Fault where
  deriving DecidableEq, Repr

/-- Why a step or a host move is refused. -/
inductive Refusal where
  /-- An instruction of the opcode table that has no meaning in the model; no arm of exec answers it.
  Safe: nothing runs. -/
  | notModelled (mnemonic : String)
  /-- Raised by the host's launch and reset moves for a ROM over 3584 bytes: a load failure, the machine
  never starts (R231, decision D21). Safe: no run is modelled. -/
  | loadFailure
  /-- Raised by the host's RUN_EN move when FSM is not FETCH: the host changes RUN_EN only at a cycle
  boundary (R91, R217). Safe: the spec has no such move. -/
  | runEnMidCycle
  /-- Raised by the host's RUN_EN move when it sets RUN_EN although no ROM was given: RUN_EN stays 0 then
  (R231). Safe: the spec has no such move. -/
  | runEnWithoutRom
  deriving DecidableEq, Repr

/-- The state after reset and before the ROM is copied, for given launch inputs (R37, R230). RUN_EN, TICK
and the two counters are not in R37's table: DESIGN CHOICE (log entries 4, 6, 8). The counters start at
0 here only; an RST or a launch of a machine that has run goes on from its counters (`State.resetTo`). -/
def State.afterReset (l : Launch) : State :=
  { v := Vector.replicate _ 0
    pc := 0x200
    i := 0
    stk := Vector.replicate _ 0
    sp := 0
    dt := 0
    st := 0
    fb := Framebuffer.blank
    mem := []
    fsm := .fetch
    ir := 0
    haltCause := .none
    ticked := false
    launch := l
    runEn := false
    tickStrobe := false
    tickDraws := 0
    rndDraws := 0 }

/-- The machine right after reset, with the launch inputs of `Launch.default`. -/
def State.reset : State := State.afterReset Launch.default

end Sys2Proof.Machine
end

