-- ==== Sys2Proof/Machine/Flags.lean ====
section
/-! DEFINITION. Every flag computation of the spec: the values written to VF by 8XY4 to 8XY7, 8XYE and FX1E
(spec/10_state.md R21, spec/42_alu.md R136 to R140 and R142, spec/44_index_timer_memory.md R184). The
collision flag of DXYN is computed by the detector in Machine/Framebuffer.lean. -/

namespace Sys2Proof.Machine

/-- `bool(c)`: 1 if c holds and 0 otherwise (R12), as the byte VF takes. -/
def boolByte (c : Bool) : Byte := if c then 1 else 0

/-- Carry out of x + y: the exact sum passes 255 (R136). -/
def carryFlag (x y : Byte) : Bool := decide (x.toNat + y.toNat > 255)

/-- The strict flag of a subtraction a - b: a > b, and 0 when they are equal (R137, R139, R142). -/
def strictGreaterFlag (a b : Byte) : Bool := decide (a.toNat > b.toNat)

/-- The bit a right shift moves out: bit 0 before the shift (R138). -/
def shiftedOutRight (v : Byte) : Bool := v.getLsbD 0

/-- The bit a left shift moves out: bit 7 before the shift (R140). -/
def shiftedOutLeft (v : Byte) : Bool := v.getLsbD 7

/-- The exact sum I + V[X] passes the 12-bit range, 0x0FFF (R184). -/
def indexOverflow (i : Word) (v : Byte) : Bool := decide (i.toNat + v.toNat > 0x0FFF)

end Sys2Proof.Machine
end

