-- ==== Sys2Proof/Machine/Memory.lean ====
section
/-! DEFINITION. The 4096 bytes of memory (spec/20_memory.md R50) as a list of address and byte pairs in one
canonical form: addresses strictly rising, no entry equal to what an unlisted address reads as. The
addresses here are physical, after `ea` (Machine/Ops.lean). -/

namespace Sys2Proof.Machine

/-- What an address that the list does not hold reads as: the reset contents, the font table at 0x050 to
0x09F and 0x00 elsewhere (R57, R63; log entry 12). -/
def Memory.unlisted (font : Vector Byte Config.fontSize) (a : Nat) : Byte :=
  if h : Config.fontBase ≤ a ∧ a < Config.fontBase + Config.fontSize then
    font[a - Config.fontBase]'(by omega)
  else 0

/-- The byte listed for an address, if any. -/
def Memory.lookup : List Host.Cell → Nat → Option Byte
  | [], _ => none
  | (k, b) :: m, a => if k = a then some b else Memory.lookup m a

/-- MEM[a] (R50, R52). -/
def Memory.read (font : Vector Byte Config.fontSize) (m : List Host.Cell) (a : Nat) : Byte :=
  (Memory.lookup m a).getD (Memory.unlisted font a)

/-- List a byte at its place in the rising order, over an older entry for the same address. -/
def Memory.insert : List Host.Cell → Nat → Byte → List Host.Cell
  | [], a, b => [(a, b)]
  | (k, c) :: m, a, b =>
    if a < k then (a, b) :: (k, c) :: m
    else if a = k then (a, b) :: m
    else (k, c) :: Memory.insert m a b

/-- Unlist an address. -/
def Memory.erase : List Host.Cell → Nat → List Host.Cell
  | [], _ => []
  | (k, c) :: m, a => if k = a then m else (k, c) :: Memory.erase m a

/-- MEM[a] <- b (R52), keeping the canonical form. -/
def Memory.write (font : Vector Byte Config.fontSize) (m : List Host.Cell) (a : Nat) (b : Byte) :
    List Host.Cell :=
  if b = Memory.unlisted font a then Memory.erase m a else Memory.insert m a b

/-- MEM[a + k] <- bytes[k] for every k, lowest address first. -/
def Memory.writeList (font : Vector Byte Config.fontSize) (m : List Host.Cell) (a : Nat) :
    List Byte → List Host.Cell
  | [] => m
  | b :: bs => Memory.writeList font (Memory.write font m a b) (a + 1) bs

/-- Addresses strictly rising. -/
def Memory.sorted : List Host.Cell → Bool
  | [] => true
  | (a, _) :: m => m.all (fun c => decide (a < c.1)) && Memory.sorted m

/-- The canonical form: strictly rising addresses below 4096, no entry that an unlisted address equals. -/
def Memory.wf (font : Vector Byte Config.fontSize) (m : List Host.Cell) : Bool :=
  Memory.sorted m &&
    m.all (fun c => decide (c.1 < Config.memSize) && c.2 != Memory.unlisted font c.1)

end Sys2Proof.Machine
end

