-- ==== Sys2Proof/Machine/Ops.lean ====
section
/-! DEFINITION. The named operations over the state (spec/00_scope.md R13): registers, the stack, memory through
`ea`, the halt that every exceptional event is, the FETCH step, the timer tick and the end of a cycle.
An operation that can raise a halt answers `none`, and its caller halts from the state it started in:
so a raise discards everything the step did (spec/40_fsm.md R94, spec/20_memory.md R56). -/

namespace Sys2Proof.Machine

/-! ### Registers -/

/-- V[x] (R13, R20). -/
def State.getV (s : State) (x : Reg) : Byte := s.v[x.toNat]'x.isLt

/-- V[x] <- b (R13, R20). -/
def State.setV (s : State) (x : Reg) (b : Byte) : State := { s with v := s.v.set x.toNat b x.isLt }

/-- VF <- bool(c), the flag output (R21). -/
def State.setFlag (s : State) (c : Bool) : State := s.setV regVF (boolByte c)

/-- The result to V[x] first, the flag to VF second, so that VF ends up holding the flag when x = F (R143,
decision D7). -/
def State.setResultFlag (s : State) (x : Reg) (r : Byte) (c : Bool) : State :=
  (s.setV x r).setFlag c

/-- pc <- target (R13). -/
def State.setPc (s : State) (w : Word) : State := { s with pc := w }

/-- I <- w (R13). -/
def State.setI (s : State) (w : Word) : State := { s with i := w }

/-- DT <- b (R13). -/
def State.setDt (s : State) (b : Byte) : State := { s with dt := b }

/-- ST <- b (R13). -/
def State.setSt (s : State) (b : Byte) : State := { s with st := b }

/-- The whole framebuffer. -/
def State.setFb (s : State) (fb : Framebuffer) : State := { s with fb := fb }

/-- The whole memory. -/
def State.setMem (s : State) (m : List Host.Cell) : State := { s with mem := m }

/-- `rnd` (R141): the draw, and the state in which the next execution draws afresh. -/
def State.drawRnd (s : State) : Byte × State :=
  (Config.rnd s.rndDraws, { s with rndDraws := s.rndDraws + 1 })

/-- pc <- (PC + 2) mod 2^16 (R23). -/
def State.advancePc (s : State) : State := s.setPc (s.pc + 2)

/-- A skip: the PC passes the next word if the condition holds (R118). -/
def State.skipIf (s : State) (c : Bool) : State := if c then s.advancePc else s

/-! ### Halts: the one exceptional event -/

/-- `raise Halt(cause)` (R94, R209): the cause is recorded and the FSM stops; all else keeps its value. -/
def State.halt (s : State) (c : HaltCause) : State := { s with haltCause := c, fsm := .halted }

/-- Finish an instruction whose checks may have raised: halt from the state it started in, or go on. -/
def State.orHalt (s : State) (c : HaltCause) : Option State → State
  | some t => t
  | none => s.halt c

/-! ### The stack -/

/-- `Push(v)` (R26); `none` is Halt(STACK_OVERFLOW). -/
def State.push (s : State) (w : Word) : Option State :=
  if h : s.sp.val < Config.stackDepth then
    some { s with stk := s.stk.set s.sp.val w h, sp := ⟨s.sp.val + 1, by omega⟩ }
  else none

/-- `Pop()` (R26): the popped entry and the state after it; `none` is Halt(STACK_UNDERFLOW). The entry
itself stays where it was (R27). -/
def State.pop (s : State) : Option (Word × State) :=
  if h : 0 < s.sp.val then
    some (s.stk[s.sp.val - 1]'(by omega), { s with sp := ⟨s.sp.val - 1, by omega⟩ })
  else none

/-! ### Memory -/

/-- MEM[a], the byte at a physical address (R50). -/
def State.byteAt (s : State) (a : Nat) : Byte := Memory.read s.launch.fontTable s.mem a

/-- `ea(a)` (R51); `none` is Halt(ADDRESS_FAULT). -/
def State.ea (s : State) (a : Nat) : Option Nat :=
  match s.launch.addrPolicy with
  | .wrap => some (a % Config.memSize)
  | .fault => if a < Config.memSize then some a else none

/-- `MemRead(a, 1)` (R52). -/
def State.memRead (s : State) (a : Nat) : Option Byte := (s.ea a).map s.byteAt

/-- `MemWrite(a, 1, b)` (R52). -/
def State.memWrite (s : State) (a : Nat) (b : Byte) : Option State :=
  (s.ea a).map fun p => s.setMem (Memory.write s.launch.fontTable s.mem p b)

/-- MemRead(a), ..., MemRead(a + n - 1), lowest address first (R55); `none` if any address faults (R56). -/
def State.readBytes (s : State) (a : Nat) : Nat → Option (List Byte)
  | 0 => some []
  | n + 1 =>
    match s.memRead a with
    | none => none
    | some b => (s.readBytes (a + 1) n).map (b :: ·)

/-- MemWrite(a + k, bytes[k]) for every k, lowest address first (R55); `none` if any address faults, and
then nothing is written (R56). -/
def State.writeBytes (s : State) (a : Nat) : List Byte → Option State
  | [] => some s
  | b :: bs =>
    match s.memWrite a b with
    | none => none
    | some t => t.writeBytes (a + 1) bs

/-- V[k], V[k+1], ... <- the bytes, in order (R188). -/
def State.loadBlock (s : State) (k : Nat) : List Byte → State
  | [] => s
  | b :: bs => (s.setV (BitVec.ofNat 4 k) b).loadBlock (k + 1) bs

/-- V[0], ..., V[n - 1] (R187). -/
def State.block (s : State) (n : Nat) : List Byte :=
  (List.range n).map fun k => s.getV (BitVec.ofNat 4 k)

/-! ### The FETCH step, the tick and the end of a cycle -/

/-- The FETCH step (R92): big-endian, each byte through its own `ea`; PC + 1 is not truncated. -/
def State.fetch (s : State) : State :=
  match s.memRead s.pc.toNat, s.memRead (s.pc.toNat + 1) with
  | some hi, some lo =>
    { s with ir := wordOfBytes hi lo, pc := s.pc + 2, ticked := false, fsm := .execute }
  | _, _ => s.halt .addressFault

/-- One timer's part of a tick: down by one, never below zero (R212). -/
def countDown (t : Byte) : Byte := if t = 0 then 0 else t - 1

/-- The timer tick (R212): both timers together. -/
def State.tick (s : State) : State :=
  { s with dt := countDown s.dt, st := countDown s.st, ticked := true }

/-- A tick is enabled (R212) and the timer clock's strobe asks for it (R217). -/
def State.tickDue (s : State) : Bool := decide (s.fsm = .fetch) && s.runEn && !s.ticked && s.tickStrobe

/-- The timer clock's strobe for the coming boundary is sampled: a free value (R213; log entry 6). -/
def State.sampleTick (s : State) : State :=
  { s with tickStrobe := Config.tick s.tickDraws, tickDraws := s.tickDraws + 1 }

/-- The end of an EXECUTE step: FSM <- FETCH, only if the handler raised nothing (R93). -/
def State.endCycle (s : State) : State :=
  match s.fsm with
  | .halted => s
  | .fetch | .execute => { s with fsm := .fetch }.sampleTick

/-- A word's two bytes stored where the next FETCH reads them. -/
def State.storeWord (s : State) (w : Word) : State :=
  let m := Memory.write s.launch.fontTable s.mem (s.pc.toNat % Config.memSize) (highByte w)
  s.setMem (Memory.write s.launch.fontTable m ((s.pc.toNat + 1) % Config.memSize) (lowByte w))

end Sys2Proof.Machine
end

