-- ==== Sys2Proof/Machine/Operands.lean ====
section
/-! DEFINITION. Every operand form of the spec: zero-extended immediates (spec/30_encoding.md R71), the operand a
shift takes and the register a jump with offset adds (spec/42_alu.md R138, R140, spec/41_control_flow.md
R117), the sprite's start position and clipping (spec/43_display.md R161, R164), the glyph address, the
decimal digits and the register block (spec/44_index_timer_memory.md R185 to R188). -/

namespace Sys2Proof.Machine

/-- zext_16(NNN) (R71). -/
def zextAddr (nnn : Addr12) : Word := nnn.zeroExtend 16

/-- zext_16 of a register's value, for 16-bit sums (R12). -/
def zextByte (b : Byte) : Word := b.zeroExtend 16

/-- The value a shift works on: V[Y] in legacy mode, V[X] in modern mode (R138, R140). -/
def State.shiftOperand (s : State) (x y : Reg) : Byte :=
  if s.launch.legacyMode then s.getV y else s.getV x

/-- The register a jump with offset adds: V0 in legacy mode, V[NNN[11:8]] in modern mode (R117). -/
def State.offsetRegister (s : State) (nnn : Addr12) : Reg :=
  if s.launch.legacyMode then regV0 else nnn.extractLsb' 8 4

/-- The sprite's start column, V[X] mod 64 (R161). -/
def State.spriteColumn (s : State) (x : Reg) : Nat := (s.getV x).toNat % Config.fbWidth

/-- The sprite's start row, V[Y] mod 32 (R161). -/
def State.spriteRow (s : State) (y : Reg) : Nat := (s.getV y).toNat % Config.fbHeight

/-- R, the rows left after clipping (R161, R164). -/
def drawnRows (n : Nibble) (cy : Nat) : Nat := min n.toNat (Config.fbHeight - cy)

/-- C, the columns left after clipping (R161, R164). -/
def drawnColumns (cx : Nat) : Nat := min 8 (Config.fbWidth - cx)

/-- The address of the glyph of a value's low nibble: 0x050 + 5 * (v & 0x0F) (R185). -/
def glyphAddr (v : Byte) : Word := BitVec.ofNat 16 (Config.fontBase + Config.glyphSize * (v &&& 0x0F).toNat)

/-- The three decimal digits of a byte, hundreds first (R186). -/
def bcdDigits (v : Byte) : List Byte :=
  [BitVec.ofNat 8 (v.toNat / 100), BitVec.ofNat 8 (v.toNat / 10 % 10), BitVec.ofNat 8 (v.toNat % 10)]

/-- The number of registers of a block, X + 1 (R71). -/
def blockSize (x : Reg) : Nat := x.toNat + 1

/-- I after a register block: I + X + 1 in legacy mode, unchanged in modern mode (R187, R188). -/
def State.bumpI (s : State) (x : Reg) : State :=
  if s.launch.legacyMode then s.setI (s.i + BitVec.ofNat 16 (blockSize x)) else s

end Sys2Proof.Machine
end

