-- ==== Sys2Proof/Machine/Alu.lean ====
section
/-! DEFINITION. The register arithmetic and logic of spec/42_alu.md, 8-bit and unsigned, wrapping modulo 256 (R142).
All operands are read before either write (R143). -/

namespace Sys2Proof.Machine

/-- LD Vx, byte, 6XKK: V[X] <- KK (R130). -/
def execLdByte (x : Reg) (kk : Byte) (s : State) : Host.Outcome State Fault Refusal :=
  .next (s.setV x kk)

/-- ADD Vx, byte, 7XKK: V[X] <- (x + KK) mod 256, no flag (R131). -/
def execAddByte (x : Reg) (kk : Byte) (s : State) : Host.Outcome State Fault Refusal :=
  .next (s.setV x (s.getV x + kk))

/-- LD Vx, Vy, 8XY0: V[X] <- y (R132). -/
def execLdReg (x y : Reg) (s : State) : Host.Outcome State Fault Refusal :=
  .next (s.setV x (s.getV y))

/-- OR Vx, Vy, 8XY1: V[X] <- x | y, VF untouched (R133, decision D8). -/
def execOrReg (x y : Reg) (s : State) : Host.Outcome State Fault Refusal :=
  .next (s.setV x (s.getV x ||| s.getV y))

/-- AND Vx, Vy, 8XY2: V[X] <- x & y, VF untouched (R134, decision D8). -/
def execAndReg (x y : Reg) (s : State) : Host.Outcome State Fault Refusal :=
  .next (s.setV x (s.getV x &&& s.getV y))

/-- XOR Vx, Vy, 8XY3: V[X] <- x ^ y, VF untouched (R135, decision D8). -/
def execXorReg (x y : Reg) (s : State) : Host.Outcome State Fault Refusal :=
  .next (s.setV x (s.getV x ^^^ s.getV y))

/-- ADD Vx, Vy, 8XY4: V[X] <- (x + y) mod 256, VF <- carry (R136). -/
def execAddReg (x y : Reg) (s : State) : Host.Outcome State Fault Refusal :=
  .next (s.setResultFlag x (s.getV x + s.getV y) (carryFlag (s.getV x) (s.getV y)))

/-- SUB Vx, Vy, 8XY5: V[X] <- (x - y) mod 256, VF <- bool(x > y) (R137). -/
def execSubReg (x y : Reg) (s : State) : Host.Outcome State Fault Refusal :=
  .next (s.setResultFlag x (s.getV x - s.getV y) (strictGreaterFlag (s.getV x) (s.getV y)))

/-- SHR Vx, Vy, 8XY6: V[X] <- v >> 1, VF <- v[0], v the shift operand (R138). -/
def execShr (x y : Reg) (s : State) : Host.Outcome State Fault Refusal :=
  .next (s.setResultFlag x (s.shiftOperand x y >>> 1) (shiftedOutRight (s.shiftOperand x y)))

/-- SUBN Vx, Vy, 8XY7: V[X] <- (y - x) mod 256, VF <- bool(y > x) (R139). -/
def execSubnReg (x y : Reg) (s : State) : Host.Outcome State Fault Refusal :=
  .next (s.setResultFlag x (s.getV y - s.getV x) (strictGreaterFlag (s.getV y) (s.getV x)))

/-- SHL Vx, Vy, 8XYE: V[X] <- (v << 1) mod 256, VF <- v[7], v the shift operand (R140). -/
def execShl (x y : Reg) (s : State) : Host.Outcome State Fault Refusal :=
  .next (s.setResultFlag x (s.shiftOperand x y <<< 1) (shiftedOutLeft (s.shiftOperand x y)))

/-- RND Vx, byte, CXKK: V[X] <- rnd & KK, a fresh draw each time (R141). -/
def execRnd (x : Reg) (kk : Byte) (s : State) : Host.Outcome State Fault Refusal :=
  .next (s.drawRnd.2.setV x (s.drawRnd.1 &&& kk))

end Sys2Proof.Machine
end

