-- ==== Sys2Proof/Machine/ControlFlow.lean ====
section
/-! DEFINITION. The control transfers of spec/41_control_flow.md: return, jump, call, the four skips and the jump
with offset. Each runs with the PC already advanced by FETCH (spec/10_state.md R22). -/

namespace Sys2Proof.Machine

/-- RET, 00EE: pc <- Pop() (R110). -/
def execRet (s : State) : Host.Outcome State Fault Refusal :=
  .next (s.orHalt .stackUnderflow (s.pop.map fun p => p.2.setPc p.1))

/-- JP addr, 1NNN: pc <- zext_16(NNN) (R111). -/
def execJp (nnn : Addr12) (s : State) : Host.Outcome State Fault Refusal :=
  .next (s.setPc (zextAddr nnn))

/-- CALL addr, 2NNN: Push(PC), then pc <- zext_16(NNN) (R112). -/
def execCall (nnn : Addr12) (s : State) : Host.Outcome State Fault Refusal :=
  .next (s.orHalt .stackOverflow ((s.push s.pc).map (·.setPc (zextAddr nnn))))

/-- SE Vx, byte, 3XKK: skip if V[X] = KK (R113). -/
def execSeByte (x : Reg) (kk : Byte) (s : State) : Host.Outcome State Fault Refusal :=
  .next (s.skipIf (s.getV x == kk))

/-- SNE Vx, byte, 4XKK: skip if V[X] ≠ KK (R114). -/
def execSneByte (x : Reg) (kk : Byte) (s : State) : Host.Outcome State Fault Refusal :=
  .next (s.skipIf (s.getV x != kk))

/-- SE Vx, Vy, 5XY0: skip if V[X] = V[Y] (R115). -/
def execSeReg (x y : Reg) (s : State) : Host.Outcome State Fault Refusal :=
  .next (s.skipIf (s.getV x == s.getV y))

/-- SNE Vx, Vy, 9XY0: skip if V[X] ≠ V[Y] (R116). -/
def execSneReg (x y : Reg) (s : State) : Host.Outcome State Fault Refusal :=
  .next (s.skipIf (s.getV x != s.getV y))

/-- JP V0, addr / JP Vx, addr, BNNN: pc <- (zext_16(NNN) + V[r]) mod 2^16 (R117). -/
def execJpOffset (nnn : Addr12) (s : State) : Host.Outcome State Fault Refusal :=
  .next (s.setPc (zextAddr nnn + zextByte (s.getV (s.offsetRegister nnn))))

end Sys2Proof.Machine
end

