-- ==== Sys2Proof/Machine/Framebuffer.lean ====
section
/-! DEFINITION. The framebuffer's cells, the collision detector and the pixel-XOR engine (spec/10_state.md R30,
spec/43_display.md R161 to R164). A draw runs over the sprite's bits in the spec's order: top row first,
the most significant bit first. -/

namespace Sys2Proof.Machine

/-- FB[r][c]; a position off the grid is no cell and reads as off. -/
def Framebuffer.cell (fb : Framebuffer) (r c : Nat) : Bool :=
  if h : r < Config.fbHeight ∧ c < Config.fbWidth then (fb[r]'h.1)[c]'h.2 else false

/-- FB[r][c] <- not FB[r][c]; a position off the grid is no cell and nothing changes. -/
def Framebuffer.toggle (fb : Framebuffer) (r c : Nat) : Framebuffer :=
  if h : r < Config.fbHeight ∧ c < Config.fbWidth then
    fb.set r ((fb[r]'h.1).set c (!(fb[r]'h.1)[c]'h.2) h.2) h.1
  else fb

/-- What a draw has done so far: the framebuffer and the collision flag `hit` (R161). -/
structure Canvas where
  /-- The framebuffer so far. -/
  fb : Framebuffer
  /-- The collision detector's flag so far (R162). -/
  hit : Bool
  deriving DecidableEq, Repr

/-- One sprite bit on cell (r, c): a set bit first tests the cell, then toggles it; a clear bit does
nothing (R162, R163). -/
def Canvas.plot (d : Canvas) (bit : Bool) (r c : Nat) : Canvas :=
  if bit then { fb := d.fb.toggle r c, hit := d.hit || d.fb.cell r c } else d

/-- Bit k of a sprite row, counted from the left: bit 7 - k of its byte (R161). -/
def spriteBit (b : Byte) (k : Nat) : Bool := b.getLsbD (7 - k)

/-- One sprite row at row r, from column cx, its first `cols` bits (R161). -/
def Canvas.plotRow (d : Canvas) (b : Byte) (r cx cols : Nat) : Canvas :=
  (List.range cols).foldl (fun d k => d.plot (spriteBit b k) r (cx + k)) d

/-- The sprite's rows from row r down (R161). -/
def Canvas.plotRows (d : Canvas) (r cx cols : Nat) : List Byte → Canvas
  | [] => d
  | b :: bs => (d.plotRow b r cx cols).plotRows (r + 1) cx cols bs

end Sys2Proof.Machine
end

