-- ==== Sys2Proof/Machine/Display.lean ====
section
/-! DEFINITION. The display instructions of spec/43_display.md: clear screen and sprite draw. -/

namespace Sys2Proof.Machine

/-- CLS, 00E0: every cell false (R160). -/
def execCls (s : State) : Host.Outcome State Fault Refusal :=
  .next (s.setFb Framebuffer.blank)

/-- The canvas after a sprite's drawn rows (R161): the start position wraps, the rest is clipped (R164). -/
def State.drawSprite (s : State) (x y : Reg) (bytes : List Byte) : Canvas :=
  { fb := s.fb, hit := false : Canvas }.plotRows (s.spriteRow y) (s.spriteColumn x)
    (drawnColumns (s.spriteColumn x)) bytes

/-- DRW Vx, Vy, nibble, DXYN (R161): the coordinates are read and the sprite's drawn rows are fetched
before anything is written; VF <- hit comes last. -/
def execDrw (x y : Reg) (n : Nibble) (s : State) : Host.Outcome State Fault Refusal :=
  .next (s.orHalt .addressFault
    ((s.readBytes s.i.toNat (drawnRows n (s.spriteRow y))).map fun bytes =>
      (s.setFb (s.drawSprite x y bytes).fb).setFlag (s.drawSprite x y bytes).hit))

end Sys2Proof.Machine
end

