-- ==== Sys2Proof/Machine/Halts.lean ====
section
/-! DEFINITION. The halting rows of the opcode table (spec/30_encoding.md R75): the effect of such a word is to halt
the core with the row's cause (spec/60_exceptions.md R200 to R202, spec/40_fsm.md R94). -/

namespace Sys2Proof.Machine

/-- 0NNN other than 00E0 and 00EE, the system-call family: halts DECODE (R75). -/
def execSysHalt (_nnn : Addr12) (s : State) : Host.Outcome State Fault Refusal :=
  .next (s.halt .decode)

/-- 5XYn with n ≠ 0: no comparison is done: halts MALFORMED_SKIP (R75). -/
def execMalformedSe (_x _y : Reg) (_n : Nibble) (s : State) : Host.Outcome State Fault Refusal :=
  .next (s.halt .malformedSkip)

/-- 8XY8, an unmatched low nibble of family 8: halts DECODE (R75). -/
def execUnmatched8 (_x _y : Reg) (s : State) : Host.Outcome State Fault Refusal :=
  .next (s.halt .decode)

/-- 8XY9, an unmatched low nibble of family 8: halts DECODE (R75). -/
def execUnmatched9 (_x _y : Reg) (s : State) : Host.Outcome State Fault Refusal :=
  .next (s.halt .decode)

/-- 8XYA, an unmatched low nibble of family 8: halts DECODE (R75). -/
def execUnmatchedA (_x _y : Reg) (s : State) : Host.Outcome State Fault Refusal :=
  .next (s.halt .decode)

/-- 8XYB, an unmatched low nibble of family 8: halts DECODE (R75). -/
def execUnmatchedB (_x _y : Reg) (s : State) : Host.Outcome State Fault Refusal :=
  .next (s.halt .decode)

/-- 8XYC, an unmatched low nibble of family 8: halts DECODE (R75). -/
def execUnmatchedC (_x _y : Reg) (s : State) : Host.Outcome State Fault Refusal :=
  .next (s.halt .decode)

/-- 8XYD, an unmatched low nibble of family 8: halts DECODE (R75). -/
def execUnmatchedD (_x _y : Reg) (s : State) : Host.Outcome State Fault Refusal :=
  .next (s.halt .decode)

/-- 8XYF, an unmatched low nibble of family 8: halts DECODE (R75). -/
def execUnmatchedF (_x _y : Reg) (s : State) : Host.Outcome State Fault Refusal :=
  .next (s.halt .decode)

/-- 9XYn with n ≠ 0: no comparison is done: halts MALFORMED_SKIP (R75). -/
def execMalformedSne (_x _y : Reg) (_n : Nibble) (s : State) : Host.Outcome State Fault Refusal :=
  .next (s.halt .malformedSkip)

/-- EXKK: family E has no instruction in this core: halts DECODE (R75). -/
def execFamilyE (_x : Reg) (_kk : Byte) (s : State) : Host.Outcome State Fault Refusal :=
  .next (s.halt .decode)

/-- FXKK with an unmatched last byte: halts DECODE (R75). -/
def execFamilyF (_x : Reg) (_kk : Byte) (s : State) : Host.Outcome State Fault Refusal :=
  .next (s.halt .decode)

end Sys2Proof.Machine
end

