-- ==== Sys2Proof/Machine/IndexTimer.lean ====
section
/-! DEFINITION. The index register, timer, decimal and register-block instructions of
spec/44_index_timer_memory.md: ANNN and family F. -/

namespace Sys2Proof.Machine

/-- LD I, addr, ANNN: I <- zext_16(NNN) (R180). -/
def execLdI (nnn : Addr12) (s : State) : Host.Outcome State Fault Refusal :=
  .next (s.setI (zextAddr nnn))

/-- LD Vx, DT, FX07: V[X] <- DT (R181). -/
def execLdVxDt (x : Reg) (s : State) : Host.Outcome State Fault Refusal :=
  .next (s.setV x s.dt)

/-- LD DT, Vx, FX15: DT <- V[X] (R182). -/
def execLdDtVx (x : Reg) (s : State) : Host.Outcome State Fault Refusal :=
  .next (s.setDt (s.getV x))

/-- LD ST, Vx, FX18: ST <- V[X] (R183). -/
def execLdStVx (x : Reg) (s : State) : Host.Outcome State Fault Refusal :=
  .next (s.setSt (s.getV x))

/-- ADD I, Vx, FX1E: I <- (I + V[X]) mod 2^16; in modern mode VF <- 1 if the exact sum passes 0x0FFF, and
VF is otherwise untouched (R184, decision D10). -/
def execAddI (x : Reg) (s : State) : Host.Outcome State Fault Refusal :=
  let t := s.setI (s.i + zextByte (s.getV x))
  .next (if !s.launch.legacyMode && indexOverflow s.i (s.getV x) then t.setFlag true else t)

/-- LD F, Vx, FX29: I <- the address of the glyph of V[X]'s low nibble (R185). -/
def execLdF (x : Reg) (s : State) : Host.Outcome State Fault Refusal :=
  .next (s.setI (glyphAddr (s.getV x)))

/-- LD B, Vx, FX33: the decimal digits of V[X] to I, I + 1, I + 2 (R186). -/
def execLdB (x : Reg) (s : State) : Host.Outcome State Fault Refusal :=
  .next (s.orHalt .addressFault (s.writeBytes s.i.toNat (bcdDigits (s.getV x))))

/-- LD [I], Vx, FX55: V[0..X] to I, I + 1, ...; in legacy mode I <- I + X + 1 (R187). -/
def execStoreRegs (x : Reg) (s : State) : Host.Outcome State Fault Refusal :=
  .next (s.orHalt .addressFault ((s.writeBytes s.i.toNat (s.block (blockSize x))).map (·.bumpI x)))

/-- LD Vx, [I], FX65: V[0..X] from I, I + 1, ...; in legacy mode I <- I + X + 1 (R188). -/
def execLoadRegs (x : Reg) (s : State) : Host.Outcome State Fault Refusal :=
  .next (s.orHalt .addressFault
    ((s.readBytes s.i.toNat (blockSize x)).map fun bytes => (s.loadBlock 0 bytes).bumpI x))

end Sys2Proof.Machine
end

