-- ==== Sys2Proof/Machine/Dispatch.lean ====
section
/-! DEFINITION. The dispatch of EXECUTE (spec/40_fsm.md R93): each decoded instruction has exactly one handler. -/

namespace Sys2Proof.Machine

def exec (i : Instr) (s : State) : Host.Outcome State Fault Refusal :=
  match i with
  | .cls => Sys2Proof.Machine.execCls s
  | .ret => Sys2Proof.Machine.execRet s
  | .jp nnn => Sys2Proof.Machine.execJp nnn s
  | .call nnn => Sys2Proof.Machine.execCall nnn s
  | .seByte x kk => Sys2Proof.Machine.execSeByte x kk s
  | .sneByte x kk => Sys2Proof.Machine.execSneByte x kk s
  | .seReg x y => Sys2Proof.Machine.execSeReg x y s
  | .ldByte x kk => Sys2Proof.Machine.execLdByte x kk s
  | .addByte x kk => Sys2Proof.Machine.execAddByte x kk s
  | .ldReg x y => Sys2Proof.Machine.execLdReg x y s
  | .orReg x y => Sys2Proof.Machine.execOrReg x y s
  | .andReg x y => Sys2Proof.Machine.execAndReg x y s
  | .xorReg x y => Sys2Proof.Machine.execXorReg x y s
  | .addReg x y => Sys2Proof.Machine.execAddReg x y s
  | .subReg x y => Sys2Proof.Machine.execSubReg x y s
  | .shr x y => Sys2Proof.Machine.execShr x y s
  | .subnReg x y => Sys2Proof.Machine.execSubnReg x y s
  | .shl x y => Sys2Proof.Machine.execShl x y s
  | .sneReg x y => Sys2Proof.Machine.execSneReg x y s
  | .ldI nnn => Sys2Proof.Machine.execLdI nnn s
  | .jpOffset nnn => Sys2Proof.Machine.execJpOffset nnn s
  | .rnd x kk => Sys2Proof.Machine.execRnd x kk s
  | .drw x y n => Sys2Proof.Machine.execDrw x y n s
  | .ldVxDt x => Sys2Proof.Machine.execLdVxDt x s
  | .ldDtVx x => Sys2Proof.Machine.execLdDtVx x s
  | .ldStVx x => Sys2Proof.Machine.execLdStVx x s
  | .addI x => Sys2Proof.Machine.execAddI x s
  | .ldF x => Sys2Proof.Machine.execLdF x s
  | .ldB x => Sys2Proof.Machine.execLdB x s
  | .storeRegs x => Sys2Proof.Machine.execStoreRegs x s
  | .loadRegs x => Sys2Proof.Machine.execLoadRegs x s
  | .sysHalt nnn => Sys2Proof.Machine.execSysHalt nnn s
  | .malformedSe x y n => Sys2Proof.Machine.execMalformedSe x y n s
  | .unmatched8 x y => Sys2Proof.Machine.execUnmatched8 x y s
  | .unmatched9 x y => Sys2Proof.Machine.execUnmatched9 x y s
  | .unmatchedA x y => Sys2Proof.Machine.execUnmatchedA x y s
  | .unmatchedB x y => Sys2Proof.Machine.execUnmatchedB x y s
  | .unmatchedC x y => Sys2Proof.Machine.execUnmatchedC x y s
  | .unmatchedD x y => Sys2Proof.Machine.execUnmatchedD x y s
  | .unmatchedF x y => Sys2Proof.Machine.execUnmatchedF x y s
  | .malformedSne x y n => Sys2Proof.Machine.execMalformedSne x y n s
  | .familyE x kk => Sys2Proof.Machine.execFamilyE x kk s
  | .familyF x kk => Sys2Proof.Machine.execFamilyF x kk s

end Sys2Proof.Machine
end

