-- ==== Sys2Proof/Machine/Cycle.lean ====
section
/-! DEFINITION. The steps of the FSM (spec/40_fsm.md R90 to R95): the EXECUTE step, a whole cycle, and which agent
moves next. One step of the model is one cycle, which no other agent can interrupt (spec/20_memory.md
R56), or one timer tick (spec/60_exceptions.md R212; log entry 5). -/

namespace Sys2Proof.Machine

/-- The EXECUTE step (R93): decode IR, run the handler, and go back to FETCH if nothing was raised. -/
def State.execute (s : State) : Host.Outcome State Fault Refusal :=
  match exec (decode s.ir) s with
  | .next t => .next t.endCycle
  | .fault f => .fault f
  | .refused r => .refused r

/-- A cycle: one FETCH, and its EXECUTE unless the fetch faulted (R90, R92). -/
def State.cycle (s : State) : Host.Outcome State Fault Refusal :=
  match s.fetch.fsm with
  | .halted => .next s.fetch
  | .fetch | .execute => s.fetch.execute

/-- What happens next: nothing while RUN_EN = 0 (R91) or in HALTED (R95); the EXECUTE step that follows a
FETCH; at a cycle boundary the tick if one is due (R212), else a cycle. -/
def State.advance (s : State) : Host.Outcome State Fault Refusal :=
  if s.runEn then
    match s.fsm with
    | .halted => .next s
    | .execute => s.execute
    | .fetch => if s.tickDue then .next s.tick else s.cycle
  else .next s

end Sys2Proof.Machine
end

