-- ==== Sys2Proof/Machine/Step.lean ====
section
/-! DEFINITION. One step of the machine, and the placing of a word where the next step fetches it. The rules are in
Machine/Cycle.lean and Machine/Ops.lean. -/

namespace Sys2Proof.Machine

/-- One step (spec/40_fsm.md R90 to R95, spec/60_exceptions.md R212). It always answers a next state. -/
def step (s : State) : Host.Outcome State Fault Refusal := s.advance

/-- `s` with the instruction whose bits are the low `nbits` bits of `w`, numbered as spec/opcode_table.json
numbers them, stored where the next FETCH reads it, the core enabled at a cycle boundary and no tick
due there, so that the next step runs that instruction. It stands for the host's launch (log entry 4). -/
def State.withFetchWord (s : State) (nbits w : Nat) : State :=
  { s.storeWord (tableWord nbits w) with fsm := .fetch, runEn := true, tickStrobe := false }

end Sys2Proof.Machine
end

