-- ==== Sys2Proof/Machine/HostMove.lean ====
section
/-! DEFINITION. The host's moves and what it reads (spec/60_exceptions.md R216, R217): launch, reset, RUN_EN and the
outputs. They are no steps of the machine; they say which states the host can put the machine in. The
host has no move that writes memory or registers, or that changes a launch input, in a run (R217). -/

namespace Sys2Proof.Machine

/-- The loader (R231): after reset the ROM is copied byte for byte to 0x200 onward; a ROM that does not fit
is a load failure; no ROM argument loads nothing. -/
def State.loadRom (s : State) : Host.Outcome State Fault Refusal :=
  match s.launch.rom with
  | none => .next s
  | some rom =>
    if rom.length ≤ Config.maxRom then
      .next (s.setMem (Memory.writeList s.launch.fontTable s.mem Config.progBase rom))
    else .refused .loadFailure

/-- A move of the host (R216, R217). -/
inductive HostMove where
  /-- Launch the core with these inputs: reset and load. -/
  | launch (l : Launch)
  /-- Pulse RST: reset and load again, the launch inputs unchanged (R230, R231). -/
  | rst
  /-- Set RUN_EN (R91). -/
  | setRunEn (b : Bool)
  deriving DecidableEq, Repr

/-- Reset (R230). The free inputs TICK and RND come from outside the core (R217), so reset does not rewind
them: the draws go on from where they were, and the strobe for the boundary at 0x200 is sampled anew.
The spec says nothing of them at RST: DESIGN CHOICE (log entry 26). -/
def State.resetTo (s : State) (l : Launch) : State :=
  { State.afterReset l with tickDraws := s.tickDraws, rndDraws := s.rndDraws }.sampleTick

/-- Reset and load (R230, R231), in a machine that was in state `s`. -/
def State.boot (s : State) (l : Launch) : Host.Outcome State Fault Refusal := (s.resetTo l).loadRom

/-- RUN_EN <- b (R91): only at a cycle boundary, and not to 1 without a ROM (R231). The strobe of the boundary
the core stands at is not sampled again (log entry 6). -/
def State.setRunEn (s : State) (b : Bool) : Host.Outcome State Fault Refusal :=
  match s.fsm with
  | .execute | .halted => .refused .runEnMidCycle
  | .fetch =>
    if b then
      if s.launch.rom.isSome then .next { s with runEn := true }
      else .refused .runEnWithoutRom
    else .next { s with runEn := false }

/-- The state after a host's move (R217). -/
def State.hostMove (s : State) : HostMove → Host.Outcome State Fault Refusal
  | .launch l => s.boot l
  | .rst => s.boot s.launch
  | .setRunEn b => s.setRunEn b

/-- The outputs the host can read at a cycle boundary and in HALTED (R165, R217). -/
structure Outputs where
  /-- FB, the whole grid (R165). -/
  fb : Framebuffer
  /-- The FSM register, its 2-bit code, which the host can read (R31). -/
  fsm : BitVec 2
  /-- HALTED (R217). -/
  halted : Bool
  /-- HALT_CAUSE, its 3-bit code (R33, R200). -/
  haltCause : BitVec 3
  /-- DT. -/
  dt : Byte
  /-- ST, whose being nonzero is the only sound information (R29). -/
  st : Byte
  deriving DecidableEq, Repr

/-- The outputs of a state (R217). -/
def State.outputs (s : State) : Outputs :=
  { fb := s.fb
    fsm := s.fsm.code
    halted := decide (s.fsm = .halted)
    haltCause := s.haltCause.code
    dt := s.dt
    st := s.st }

end Sys2Proof.Machine
end

