-- ==== Sys2Proof/Safety.lean ====
section
/-! DEFINITION. The terms in which statements about the machine are made: the invariant of a state at a cycle
boundary, the parts of the state and what it is for a step to leave a part unchanged, what each
instruction may write (spec/10_state.md R21 to R30, spec/20_memory.md R55), which addresses an access
reaches, the clipped sprite (spec/43_display.md R161, R164) said without the drawing loop, and a run that
never ends (spec/60_exceptions.md R213). -/

namespace Sys2Proof.Machine

/-- What every state between two steps meets: memory in canonical form, HALT_CAUSE recorded exactly in
HALTED (R33, R94), and no word waiting in EXECUTE (R90, R91). -/
def State.inv (s : State) : Bool :=
  Memory.wf s.launch.fontTable s.mem
    && decide (s.fsm = .halted) == decide (s.haltCause ≠ .none)
    && decide (s.fsm ≠ .execute)

/-- The parts of the state. -/
inductive Part where
  | v | pc | i | stack | dt | st | fb | mem | fsm | ir | haltCause | ticked
  | launch | runEn | tickStrobe | tickDraws | rndDraws
  deriving DecidableEq, Repr

/-- A part is the same in two states. For memory: every byte, at every address, reads the same. -/
def Part.same (s t : State) : Part → Prop
  | .v => ∀ r, t.getV r = s.getV r
  | .pc => t.pc = s.pc
  | .i => t.i = s.i
  | .stack => t.sp = s.sp ∧ t.stk = s.stk
  | .dt => t.dt = s.dt
  | .st => t.st = s.st
  | .fb => t.fb = s.fb
  | .mem => ∀ a, t.byteAt a = s.byteAt a
  | .fsm => t.fsm = s.fsm
  | .ir => t.ir = s.ir
  | .haltCause => t.haltCause = s.haltCause
  | .ticked => t.ticked = s.ticked
  | .launch => t.launch = s.launch
  | .runEn => t.runEn = s.runEn
  | .tickStrobe => t.tickStrobe = s.tickStrobe
  | .tickDraws => t.tickDraws = s.tickDraws
  | .rndDraws => t.rndDraws = s.rndDraws

/-- From s to t every part is unchanged but those listed. -/
def Frame (changed : List Part) (s t : State) : Prop := ∀ p, p ∉ changed → p.same s t

/-- The instruction's effect is to halt the core with this cause: HALT_CAUSE and the FSM are written and
nothing else is (R94). -/
def HaltsWith (i : Instr) (s : State) (c : HaltCause) : Prop :=
  ∃ t, exec i s = .next t ∧ t.fsm = .halted ∧ t.haltCause = c ∧ Frame [.fsm, .haltCause] s t

/-- The parts an instruction may write when it completes (R21 to R30, R55, R141). A halting row completes
nothing. -/
def writesOf : Instr → List Part
  | .cls => [.fb]
  | .ret | .call _ => [.pc, .stack]
  | .jp _ | .seByte _ _ | .sneByte _ _ | .seReg _ _ | .sneReg _ _ | .jpOffset _ => [.pc]
  | .ldByte _ _ | .addByte _ _ | .ldReg _ _ | .orReg _ _ | .andReg _ _ | .xorReg _ _ | .addReg _ _
  | .subReg _ _ | .shr _ _ | .subnReg _ _ | .shl _ _ | .ldVxDt _ => [.v]
  | .rnd _ _ => [.v, .rndDraws]
  | .drw _ _ _ => [.v, .fb]
  | .ldI _ | .ldF _ => [.i]
  | .addI _ => [.i, .v]
  | .ldDtVx _ => [.dt]
  | .ldStVx _ => [.st]
  | .ldB _ => [.mem]
  | .storeRegs _ => [.mem, .i]
  | .loadRegs _ => [.v, .i]
  | .sysHalt _ | .malformedSe _ _ _ | .unmatched8 _ _ | .unmatched9 _ _ | .unmatchedA _ _
  | .unmatchedB _ _ | .unmatchedC _ _ | .unmatchedD _ _ | .unmatchedF _ _ | .malformedSne _ _ _
  | .familyE _ _ | .familyF _ _ => []

/-- The registers an instruction may write: its destination, and VF where R21 names it. -/
def writesRegOf (r : Reg) : Instr → Prop
  | .ldByte x _ | .addByte x _ | .ldReg x _ | .orReg x _ | .andReg x _ | .xorReg x _ | .rnd x _
  | .ldVxDt x => r = x
  | .addReg x _ | .subReg x _ | .shr x _ | .subnReg x _ | .shl x _ => r = x ∨ r = regVF
  | .drw _ _ _ | .addI _ => r = regVF
  | .loadRegs x => r.toNat ≤ x.toNat
  | .cls | .ret | .jp _ | .call _ | .seByte _ _ | .sneByte _ _ | .seReg _ _ | .sneReg _ _ | .ldI _
  | .jpOffset _ | .ldDtVx _ | .ldStVx _ | .ldF _ | .ldB _ | .storeRegs _
  | .sysHalt _ | .malformedSe _ _ _ | .unmatched8 _ _ | .unmatched9 _ _ | .unmatchedA _ _
  | .unmatchedB _ _ | .unmatchedC _ _ | .unmatchedD _ _ | .unmatchedF _ _ | .malformedSne _ _ _
  | .familyE _ _ | .familyF _ _ => False

/-- The instruction accesses memory in EXECUTE: DXYN, FX33, FX55, FX65 (R50, R55). -/
def touchesMemory : Instr → Bool
  | .drw _ _ _ | .ldB _ | .storeRegs _ | .loadRegs _ => true
  | .cls | .ret | .jp _ | .call _ | .seByte _ _ | .sneByte _ _ | .seReg _ _ | .ldByte _ _
  | .addByte _ _ | .ldReg _ _ | .orReg _ _ | .andReg _ _ | .xorReg _ _ | .addReg _ _ | .subReg _ _
  | .shr _ _ | .subnReg _ _ | .shl _ _ | .sneReg _ _ | .ldI _ | .jpOffset _ | .rnd _ _ | .ldVxDt _
  | .ldDtVx _ | .ldStVx _ | .addI _ | .ldF _ | .sysHalt _ | .malformedSe _ _ _ | .unmatched8 _ _
  | .unmatched9 _ _ | .unmatchedA _ _ | .unmatchedB _ _ | .unmatchedC _ _ | .unmatchedD _ _
  | .unmatchedF _ _ | .malformedSne _ _ _ | .familyE _ _ | .familyF _ _ => false

/-- The n bytes from address a on can all be accessed: always under WRAP, below 4096 under FAULT (R51). -/
def State.reaches (s : State) (a n : Nat) : Prop :=
  s.launch.addrPolicy = .wrap ∨ n = 0 ∨ a + n ≤ Config.memSize

/-- The same answer with its next state changed by f. -/
def mapNext (f : State → State) : Host.Outcome State Fault Refusal → Host.Outcome State Fault Refusal
  | .next s => .next (f s)
  | .fault e => .fault e
  | .refused e => .refused e

/-- The sprite of DXYN covers cell (r, c) with a set bit: the cell lies in the n rows and 8 columns from the
wrapped start position, and the bit of its row's byte is set (R161). A cell of the grid past the start
position's row 31 or column 63 does not exist, so this is the clipped sprite (R164). -/
def State.spriteCovers (s : State) (x y : Reg) (n : Nibble) (r c : Nat) : Bool :=
  let cy := (s.getV y).toNat % 32
  let cx := (s.getV x).toNat % 64
  decide (cy ≤ r ∧ r < cy + n.toNat ∧ cx ≤ c ∧ c < cx + 8)
    && (s.byteAt ((s.i.toNat + (r - cy)) % 4096)).getLsbD (7 - (c - cx))

/-- The rows DXYN draws: those of its n rows that lie above row 32 (R161). -/
def State.spriteRows (s : State) (y : Reg) (n : Nibble) : Nat :=
  min n.toNat (32 - (s.getV y).toNat % 32)

/-- An infinite run (R213): step after step, with RUN_EN = 1 and never in HALTED. -/
def EndlessRun (r : Nat → State) : Prop :=
  ∀ n, step (r n) = .next (r (n + 1)) ∧ (r n).runEn = true ∧ (r n).fsm ≠ .halted

end Sys2Proof.Machine
end

