-- ==== Sys2Proof/Certificates/Slice0/Obligations.lean ====
section
/-! DEFINITION. The statements for the provers. Each docstring names the rules of spec/ it formalises. Where a
statement rests on a decision that the spec marks as its own (D<n> of spec/92_eei_decisions.md) or on
an entry of the assumption log, the docstring says so. -/

open Sys2Proof Sys2Proof.Machine

/-! ### Encoding -/

/-- No bit of an encoding is dropped: decoding the word, or the two stored bytes, of any well-formed
instruction gives it back, for every operand (30_encoding.md sections 1 to 4; 20_memory.md section 2).
That 00E0 and 00EE are whole words is decision D6. -/
def Obligations.DecodeOfEncode : Prop :=
  ∀ i : Instr, i.wellFormed = true →
    decode (encode i) = i ∧ decodeBytes (encodeBytes i) = .ok (i, [])

/-- R76: each of the 65536 words selects exactly one instruction or halts. -/
def Obligations.EveryWordIsOneInstructionOrHalts : Prop :=
  ∀ w : Word,
    ((decode w).wellFormed = true ∧ encode (decode w) = w ∧
      ∀ j : Instr, j.wellFormed = true → encode j = w → j = decode w) ∧
    ∀ (s : State) (c : HaltCause), (decode w).haltCause = some c →
      exec (decode w) s = .next (s.halt c)

/-- The halting encodings are exactly the list of 30_encoding.md section 3, with the causes given there.
The separate causes and the keypad words are decisions D15 and D26, whole-word 00E0 and 00EE D6. -/
def Obligations.HaltingWordsAreTheListedOnes : Prop :=
  ∀ w : Word, (decode w).haltCause =
    if w.toNat < 0x1000 ∧ w.toNat ≠ 0x00E0 ∧ w.toNat ≠ 0x00EE then some .decode
    else if w.toNat / 0x1000 = 5 ∧ w.toNat % 16 ≠ 0 then some .malformedSkip
    else if w.toNat / 0x1000 = 9 ∧ w.toNat % 16 ≠ 0 then some .malformedSkip
    else if w.toNat / 0x1000 = 8 ∧ w.toNat % 16 ∈ [8, 9, 0xA, 0xB, 0xC, 0xD, 0xF] then some .decode
    else if w.toNat / 0x1000 = 0xE then some .decode
    else if w.toNat / 0x1000 = 0xF ∧
        w.toNat % 256 ∉ [0x07, 0x15, 0x18, 0x1E, 0x29, 0x33, 0x55, 0x65] then some .decode
    else none

/-- Words written out from the encodings of 30_encoding.md section 2, one or more of each of the 16 families.
That 00E0 and 00EE are whole words is decision D6, that the keypad words E19E and F10A are halting rows
D26 (log entry 19). -/
def Obligations.WrittenOutWordsDecode : Prop :=
  decode 0x00E0 = .cls ∧ decode 0x00EE = .ret ∧ decode 0x1ABC = .jp 0xABC ∧
  decode 0x2300 = .call 0x300 ∧ decode 0x3310 = .seByte 3 0x10 ∧ decode 0x4311 = .sneByte 3 0x11 ∧
  decode 0x5120 = .seReg 1 2 ∧ decode 0x6005 = .ldByte 0 5 ∧ decode 0x7003 = .addByte 0 3 ∧
  decode 0x820E = .shl 2 0 ∧ decode 0x9128 = .malformedSne 1 2 8 ∧ decode 0xA300 = .ldI 0x300 ∧
  decode 0xB2F0 = .jpOffset 0x2F0 ∧ decode 0xC30F = .rnd 3 0x0F ∧ decode 0xDAB2 = .drw 0xA 0xB 2 ∧
  decode 0xE19E = .familyE 1 0x9E ∧ decode 0xF265 = .loadRegs 2 ∧ decode 0xF10A = .familyF 1 0x0A

/-! ### The FSM, halts and the timers -/

/-- A step at a cycle boundary runs the instruction that the two bytes at PC decode to (40_fsm.md sections
2 and 3): big-endian, PC advanced by 2, TICKED cleared; FSM goes back to FETCH only if nothing was
raised. The `ea` of each byte is decision D2, PC modulo 2^16 D4. The timer clock's strobe is then
sampled: the model's own field, log entry 6; that a cycle is one step is log entry 5. -/
def Obligations.StepRunsTheDecodedInstruction : Prop :=
  ∀ (s : State) (i : Instr) (a b : Nat),
    s.runEn = true → s.fsm = .fetch → s.tickDue = false →
    s.ea s.pc.toNat = some a → s.ea (s.pc.toNat + 1) = some b →
    decode (s.byteAt a ++ s.byteAt b) = i → i.wellFormed = true →
    ∃ t, exec i { s with ir := s.byteAt a ++ s.byteAt b, pc := s.pc + 2, ticked := false,
                         fsm := .execute } = .next t ∧
      step s = .next (if t.fsm = .halted then t else
        { t with fsm := .fetch, tickStrobe := Config.tick t.tickDraws, tickDraws := t.tickDraws + 1 })

/-- A fetch that goes past 0xFFF under ADDR_POLICY = FAULT halts with ADDRESS_FAULT, and PC, IR, TICKED and
all else stay (40_fsm.md section 2; decisions D2 and D14). -/
def Obligations.FetchPastMemoryFaults : Prop :=
  ∀ s : State, s.runEn = true → s.fsm = .fetch → s.tickDue = false →
    s.launch.addrPolicy = .fault → 4096 ≤ s.pc.toNat + 1 →
    step s = .next { s with haltCause := .addressFault, fsm := .halted }

/-- A halted core, and a core held by RUN_EN = 0, take no step and no tick (40_fsm.md section 1; decisions
D22 and D29). That "no step" is an unchanged next state is log entry 9. -/
def Obligations.HaltedOrHeldCoreStands : Prop :=
  ∀ s : State, s.fsm = .halted ∨ s.runEn = false → step s = .next s

/-- A tick is taken only at a cycle boundary with RUN_EN = 1 and TICKED = 0, counts both timers down
together, saturating at zero, changes nothing else, and no second tick is due at that boundary
(60_exceptions.md section 6; decision D18). The strobe that asks for it is log entry 6. -/
def Obligations.TickCountsBothTimersDown : Prop :=
  ∀ s : State,
    (s.tickDue = true ↔ s.fsm = .fetch ∧ s.runEn = true ∧ s.ticked = false ∧ s.tickStrobe = true) ∧
    (s.tickDue = true → ∃ t, step s = .next t ∧ t.dt.toNat = s.dt.toNat - 1 ∧
      t.st.toNat = s.st.toNat - 1 ∧ t.ticked = true ∧ t.tickDue = false ∧
      Frame [.dt, .st, .ticked] s t)

/-- The EXECUTE step of R93: it runs the one handler of the word in IR, a halting word raises its cause, and
FSM goes back to FETCH only if nothing was raised. What a handler reads: changing RUN_EN, the strobe of
the timer clock or ROM changes nothing a handler does, and the random draw matters to CXKK alone
(40_fsm.md section 3). FONT_TABLE is memory's contents at reset and is not spoken of here. The strobe
sampled at the boundary is log entry 6, the counter of the draws log entry 8. -/
def Obligations.ExecuteRunsOneHandler : Prop :=
  (∀ s : State, s.runEn = true → s.fsm = .execute →
    ∃ t, exec (decode s.ir) s = .next t ∧
      (t.fsm = .halted → step s = .next t) ∧
      (t.fsm ≠ .halted → ∃ u, step s = .next u ∧ u.fsm = .fetch ∧
        Frame [.fsm, .tickStrobe, .tickDraws] t u)) ∧
  (∀ (w : Word) (c : HaltCause) (s : State), (decode w).haltCause = some c →
    exec (decode w) s = .next (s.halt c)) ∧
  (∀ (i : Instr) (s : State) (en strobe : Bool) (n : Nat) (rom : Option (List Byte)),
    let f : State → State := fun u =>
      { u with runEn := en, tickStrobe := strobe, tickDraws := n, launch := { u.launch with rom := rom } }
    exec i (f s) = mapNext f (exec i s)) ∧
  (∀ (i : Instr) (s : State) (n : Nat), (∀ x kk, i ≠ .rnd x kk) →
    exec i { s with rndDraws := n } = mapNext (fun u => { u with rndDraws := n }) (exec i s))

/-- Every step answers a next state, from every state: there is nothing the core refuses and no fault that
is not a halt (40_fsm.md section 1, 60_exceptions.md section 1; log entries 9 and 18). -/
def Obligations.EveryStepAnswersANextState : Prop :=
  (∀ (i : Instr) (s : State), ∃ t, exec i s = .next t) ∧ ∀ s : State, ∃ t, step s = .next t

/-- The 12 halting rows of the opcode table halt with the row's cause and change nothing else
(30_encoding.md section 3, 40_fsm.md section 3; decisions D14, D15, D26). -/
def Obligations.HaltingRowsHalt : Prop :=
  ∀ (s : State) (nnn : Addr12) (x y : Reg) (n : Nibble) (kk : Byte),
    HaltsWith (.sysHalt nnn) s .decode ∧ HaltsWith (.malformedSe x y n) s .malformedSkip ∧
    HaltsWith (.unmatched8 x y) s .decode ∧ HaltsWith (.unmatched9 x y) s .decode ∧
    HaltsWith (.unmatchedA x y) s .decode ∧ HaltsWith (.unmatchedB x y) s .decode ∧
    HaltsWith (.unmatchedC x y) s .decode ∧ HaltsWith (.unmatchedD x y) s .decode ∧
    HaltsWith (.unmatchedF x y) s .decode ∧ HaltsWith (.malformedSne x y n) s .malformedSkip ∧
    HaltsWith (.familyE x kk) s .decode ∧ HaltsWith (.familyF x kk) s .decode

/-- Halts are precise and instructions have frames: whatever an instruction does, it writes only the parts
the spec names for it, or it halts and changes HALT_CAUSE and FSM alone (10_state.md sections 1 to 6,
40_fsm.md section 3; decision D14). -/
def Obligations.InstructionsWriteOnlyTheirParts : Prop :=
  ∀ (i : Instr) (s t : State), exec i s = .next t →
    Frame (writesOf i) s t ∨ ∃ c, c ≠ .none ∧ t = { s with haltCause := c, fsm := .halted }

/-- An instruction writes no register but its destination and, where 10_state.md section 1 names it, VF
(decisions D7, D8, D10). In particular the logic operations never write VF as a flag. -/
def Obligations.InstructionsWriteOnlyTheirRegisters : Prop :=
  ∀ (i : Instr) (s t : State) (r : Reg), exec i s = .next t → ¬ writesRegOf r i →
    t.getV r = s.getV r

/-- Memory is reached in EXECUTE by DXYN, FX33, FX55 and FX65 alone: every other instruction does the same
whatever memory holds, and leaves it as it is (20_memory.md section 1). -/
def Obligations.OnlyMemoryInstructionsTouchMemory : Prop :=
  ∀ (i : Instr) (s : State) (m : List Host.Cell), touchesMemory i = false →
    exec i (s.setMem m) = mapNext (·.setMem m) (exec i s)

/-- The framebuffer and the delay timer are reached only through their own instructions: 00E0 and DXYN,
FX07 and FX15 (60_exceptions.md section 7). -/
def Obligations.DevicesReachedOnlyByTheirInstructions : Prop :=
  (∀ (i : Instr) (s : State) (g : Framebuffer), i ≠ .cls → (∀ x y n, i ≠ .drw x y n) →
    exec i (s.setFb g) = mapNext (·.setFb g) (exec i s)) ∧
  (∀ (i : Instr) (s : State) (b : Byte), (∀ x, i ≠ .ldVxDt x) → (∀ x, i ≠ .ldDtVx x) →
    exec i (s.setDt b) = mapNext (·.setDt b) (exec i s))

/-- The invariant of a state between two steps holds after reset, whatever the launch inputs are
(10_state.md section 8; log entries 1 to 4). -/
def Obligations.ResetMeetsTheInvariant : Prop :=
  State.reset.inv = true ∧ ∀ l : Launch, (State.afterReset l).inv = true

/-- Every step keeps the invariant: memory stays canonical, HALT_CAUSE is recorded exactly in HALTED, and
no word is left waiting in EXECUTE (40_fsm.md sections 1 to 3). -/
def Obligations.StepKeepsTheInvariant : Prop :=
  ∀ s t : State, s.inv = true → step s = .next t → t.inv = true

/-- Every move of the host keeps the invariant (60_exceptions.md section 7). -/
def Obligations.HostMovesKeepTheInvariant : Prop :=
  ∀ (s t : State) (m : HostMove), s.inv = true → s.hostMove m = .next t → t.inv = true

/-- The reset values, for all launch inputs (10_state.md section 8). PC and the font's place are the
source's; FSM = FETCH is decision D27, HALT_CAUSE = NONE D15, TICKED = 0 D18, every other value D16. -/
def Obligations.ResetValues : Prop :=
  ∀ l : Launch, let s := State.afterReset l
    s.pc = 0x200 ∧ (∀ r, s.getV r = 0) ∧ s.i = 0 ∧ s.sp = 0 ∧ (∀ k (h : k < 16), s.stk[k] = 0) ∧
    s.dt = 0 ∧ s.st = 0 ∧ (∀ r c, s.fb.cell r c = false) ∧
    (∀ k (h : k < 80), s.byteAt (0x050 + k) = l.fontTable[k]) ∧
    (∀ a, a < 0x050 ∨ 0x0A0 ≤ a → s.byteAt a = 0) ∧
    s.fsm = .fetch ∧ s.ir = 0 ∧ s.haltCause = .none ∧ s.ticked = false ∧ s.launch = l

/-- The loader copies the ROM byte for byte to 0x200 onward and changes nothing else; a ROM over 3584 bytes
is a load failure (70_reset_and_hazards.md section 1; decision D21). -/
def Obligations.RomIsLoadedVerbatim : Prop :=
  ∀ (s : State) (l : Launch) (rom : List Byte), l.rom = some rom →
    (rom.length ≤ 3584 → ∃ t, s.boot l = .next t ∧
      (∀ k (h : k < rom.length), t.byteAt (0x200 + k) = rom[k]) ∧
      (∀ a, a < 0x200 ∨ 0x200 + rom.length ≤ a → t.byteAt a = (State.afterReset l).byteAt a) ∧
      Frame [.mem] (s.resetTo l) t) ∧
    (3584 < rom.length → s.boot l = .refused .loadFailure)

/-- Resetting a machine puts every part but the free inputs at its reset value, whatever was in it before;
the random draws and the samples of the strobe go on from where they were (70_reset_and_hazards.md
section 1; that RST does not rewind the free inputs is the model's choice, log entry 26, and so is that
it clears RUN_EN, which the spec gives no reset value, log entries 4 and 11). -/
def Obligations.ResetPutsEveryPartAtItsResetValue : Prop :=
  ∀ (s : State) (l : Launch),
    Frame [.tickStrobe, .tickDraws, .rndDraws] (State.afterReset l) (s.resetTo l) ∧
    (s.resetTo l).rndDraws = s.rndDraws ∧ (s.resetTo l).tickDraws = s.tickDraws + 1 ∧
    (s.resetTo l).tickStrobe = Config.tick s.tickDraws

/-- No free draw is made twice: no step and no move of the host, RST and launch among them, takes the counters
of the random draws and of the strobe's samples back, and CXKK moves the first one on (42_alu.md section
4, 60_exceptions.md sections 6 and 7; decisions D18 and D20; the counters are log entries 6, 8, 26). -/
def Obligations.FreeDrawsAreNeverMadeTwice : Prop :=
  (∀ s t : State, step s = .next t → s.rndDraws ≤ t.rndDraws ∧ s.tickDraws ≤ t.tickDraws) ∧
  (∀ (s t : State) (m : HostMove), s.hostMove m = .next t →
    s.rndDraws ≤ t.rndDraws ∧ s.tickDraws ≤ t.tickDraws) ∧
  ∀ (s : State) (x : Reg) (kk : Byte), ∃ t, exec (.rnd x kk) s = .next t ∧ s.rndDraws < t.rndDraws

/-- Fairness: in an infinite run the timer agent's tick is taken infinitely often (60_exceptions.md section
6, 70_reset_and_hazards.md section 3; decision D18; log entry 7). -/
def Obligations.TicksComeForever : Prop :=
  ∀ r : Nat → State, EndlessRun r → ∀ n, ∃ m, n ≤ m ∧ (r m).tickDue = true ∧
    step (r m) = .next (r m).tick

/-- In an infinite run a timer reaches zero if from some step on no instruction changes it again
(60_exceptions.md section 6; decision D18; log entry 7). -/
def Obligations.TimersReachZero : Prop :=
  ∀ (r : Nat → State) (k : Nat), EndlessRun r →
    ((∀ n, k ≤ n → (r n).tickDue = false → (r (n + 1)).dt = (r n).dt) → ∃ m, k ≤ m ∧ (r m).dt = 0) ∧
    ((∀ n, k ≤ n → (r n).tickDue = false → (r (n + 1)).st = (r n).st) → ∃ m, k ≤ m ∧ (r m).st = 0)

/-- The launch inputs and RUN_EN hold one value through every step (10_state.md section 7; decisions D2, D3
and D29). -/
def Obligations.StepKeepsTheLaunchInputs : Prop :=
  ∀ s t : State, step s = .next t → t.launch = s.launch ∧ t.runEn = s.runEn

/-- Under ADDR_POLICY = WRAP no step raises ADDRESS_FAULT (60_exceptions.md section 1; decision D2). -/
def Obligations.WrapNeverRaisesAddressFault : Prop :=
  ∀ s t : State, s.launch.addrPolicy = .wrap → s.haltCause ≠ .addressFault → step s = .next t →
    t.haltCause ≠ .addressFault

/-- The effective address: modulo 4096 under WRAP, a halt from 4096 on under FAULT (20_memory.md section 1;
decision D2). -/
def Obligations.EffectiveAddress : Prop :=
  ∀ (s : State) (a : Nat),
    (s.launch.addrPolicy = .wrap → s.ea a = some (a % 4096)) ∧
    (s.launch.addrPolicy = .fault → a < 4096 → s.ea a = some a) ∧
    (s.launch.addrPolicy = .fault → 4096 ≤ a → s.ea a = none)

/-- The canonical form of memory is canonical: two memories that read alike at every address are the same
list (20_memory.md section 1; log entry 12). -/
def Obligations.MemoriesThatReadAlikeAreEqual : Prop :=
  ∀ (font : Vector Byte 80) (m m' : List Host.Cell), Memory.wf font m = true → Memory.wf font m' = true →
    (∀ a, Memory.read font m a = Memory.read font m' a) → m = m'

/-! ### Control transfer -/

/-- R110: RET. -/
def Obligations.RetPopsOrUnderflows : Prop :=
  (∀ w : Word, decode w = .ret ↔ w = 0x00EE) ∧
  (∀ (s : State) (h : 0 < s.sp.val), ∃ t, exec .ret s = .next t ∧
    t.pc = s.stk[s.sp.val - 1]'(by omega) ∧ t.sp.val = s.sp.val - 1 ∧ t.stk = s.stk ∧
    Frame [.pc, .stack] s t) ∧
  (∀ s : State, s.sp.val = 0 → HaltsWith .ret s .stackUnderflow)

/-- R111: JP addr. -/
def Obligations.JpSetsPc : Prop :=
  ∀ (nnn : Addr12) (s : State), decode (wordNNN 0x1 nnn) = .jp nnn ∧
    ∃ t, exec (.jp nnn) s = .next t ∧ t.pc.toNat = nnn.toNat ∧ Frame [.pc] s t

/-- R112: CALL addr; a return right after the call goes back to the instruction after it. -/
def Obligations.CallPushesOrOverflows : Prop :=
  ∀ (nnn : Addr12) (s : State), decode (wordNNN 0x2 nnn) = .call nnn ∧
    (∀ h : s.sp.val < 16, ∃ t, exec (.call nnn) s = .next t ∧ t.pc.toNat = nnn.toNat ∧
      t.stk[s.sp.val] = s.pc ∧ t.sp.val = s.sp.val + 1 ∧
      (∀ k (hk : k < 16), k ≠ s.sp.val → t.stk[k] = s.stk[k]) ∧ Frame [.pc, .stack] s t ∧
      ∃ u, exec .ret t = .next u ∧ u.pc = s.pc ∧ u.sp = s.sp) ∧
    (s.sp.val = 16 → HaltsWith (.call nnn) s .stackOverflow)

/-- R113: SE Vx, byte. -/
def Obligations.SeByteSkips : Prop :=
  ∀ (x : Reg) (kk : Byte) (s : State), decode (wordXKK 0x3 x kk) = .seByte x kk ∧
    ∃ t, exec (.seByte x kk) s = .next t ∧
      t.pc = (if s.getV x = kk then s.pc + 2 else s.pc) ∧ Frame [.pc] s t

/-- R114: SNE Vx, byte. -/
def Obligations.SneByteSkips : Prop :=
  ∀ (x : Reg) (kk : Byte) (s : State), decode (wordXKK 0x4 x kk) = .sneByte x kk ∧
    ∃ t, exec (.sneByte x kk) s = .next t ∧
      t.pc = (if s.getV x = kk then s.pc else s.pc + 2) ∧ Frame [.pc] s t

/-- R115: SE Vx, Vy; a nonzero low nibble halts MALFORMED_SKIP. -/
def Obligations.SeRegSkips : Prop :=
  ∀ (x y : Reg) (n : Nibble) (s : State), decode (wordXYN 0x5 x y 0) = .seReg x y ∧
    (∃ t, exec (.seReg x y) s = .next t ∧
      t.pc = (if s.getV x = s.getV y then s.pc + 2 else s.pc) ∧ Frame [.pc] s t) ∧
    (n ≠ 0 → HaltsWith (decode (wordXYN 0x5 x y n)) s .malformedSkip)

/-- R116: SNE Vx, Vy; a nonzero low nibble halts MALFORMED_SKIP. -/
def Obligations.SneRegSkips : Prop :=
  ∀ (x y : Reg) (n : Nibble) (s : State), decode (wordXYN 0x9 x y 0) = .sneReg x y ∧
    (∃ t, exec (.sneReg x y) s = .next t ∧
      t.pc = (if s.getV x = s.getV y then s.pc else s.pc + 2) ∧ Frame [.pc] s t) ∧
    (n ≠ 0 → HaltsWith (decode (wordXYN 0x9 x y n)) s .malformedSkip)

/-- BNNN, the jump with offset: NNN + V0 in legacy mode, NNN + V[NNN[11:8]] in modern mode, modulo 2^16
(41_control_flow.md section 5; decisions D3, D4, D31). -/
def Obligations.JpOffsetAddsARegister : Prop :=
  ∀ (nnn : Addr12) (s : State), decode (wordNNN 0xB nnn) = .jpOffset nnn ∧
    ∃ t, exec (.jpOffset nnn) s = .next t ∧
      t.pc.toNat = (nnn.toNat + (s.getV (if s.launch.legacyMode then 0 else
        BitVec.ofNat 4 (nnn.toNat / 256))).toNat) % 65536 ∧
      Frame [.pc] s t

/-! ### Arithmetic and logic -/

/-- R130: LD Vx, byte. -/
def Obligations.LdByteSetsARegister : Prop :=
  ∀ (x : Reg) (kk : Byte) (s : State), decode (wordXKK 0x6 x kk) = .ldByte x kk ∧
    ∃ t, exec (.ldByte x kk) s = .next t ∧ t.getV x = kk ∧
      (∀ r, r ≠ x → t.getV r = s.getV r) ∧ Frame [.v] s t

/-- R131: ADD Vx, byte, with no flag. -/
def Obligations.AddByteWrapsWithoutFlag : Prop :=
  ∀ (x : Reg) (kk : Byte) (s : State), decode (wordXKK 0x7 x kk) = .addByte x kk ∧
    ∃ t, exec (.addByte x kk) s = .next t ∧
      (t.getV x).toNat = ((s.getV x).toNat + kk.toNat) % 256 ∧
      (∀ r, r ≠ x → t.getV r = s.getV r) ∧ Frame [.v] s t

/-- R132: LD Vx, Vy. -/
def Obligations.LdRegCopies : Prop :=
  ∀ (x y : Reg) (s : State), decode (wordXYN 0x8 x y 0x0) = .ldReg x y ∧
    ∃ t, exec (.ldReg x y) s = .next t ∧ t.getV x = s.getV y ∧
      (∀ r, r ≠ x → t.getV r = s.getV r) ∧ Frame [.v] s t

/-- OR, AND and XOR: bit by bit, with VF untouched unless it is the destination (42_alu.md section 3;
decision D8). -/
def Obligations.LogicOperations : Prop :=
  ∀ (x y : Reg) (s : State),
    (∃ t, exec (.orReg x y) s = .next t ∧
      (∀ k < 8, (t.getV x).getLsbD k = ((s.getV x).getLsbD k || (s.getV y).getLsbD k)) ∧
      (∀ r, r ≠ x → t.getV r = s.getV r) ∧ Frame [.v] s t) ∧
    (∃ t, exec (.andReg x y) s = .next t ∧
      (∀ k < 8, (t.getV x).getLsbD k = ((s.getV x).getLsbD k && (s.getV y).getLsbD k)) ∧
      (∀ r, r ≠ x → t.getV r = s.getV r) ∧ Frame [.v] s t) ∧
    (∃ t, exec (.xorReg x y) s = .next t ∧
      (∀ k < 8, (t.getV x).getLsbD k = ((s.getV x).getLsbD k ^^ (s.getV y).getLsbD k)) ∧
      (∀ r, r ≠ x → t.getV r = s.getV r) ∧ Frame [.v] s t)

/-- ADD Vx, Vy: the sum modulo 256 and the carry; the flag is written last, so VF holds it even when x = F
(42_alu.md section 3; decision D7). -/
def Obligations.AddRegSetsCarry : Prop :=
  ∀ (x y : Reg) (s : State), decode (wordXYN 0x8 x y 0x4) = .addReg x y ∧
    ∃ t, exec (.addReg x y) s = .next t ∧
      (x ≠ regVF → (t.getV x).toNat = ((s.getV x).toNat + (s.getV y).toNat) % 256) ∧
      t.getV regVF = (if (s.getV x).toNat + (s.getV y).toNat > 255 then 1 else 0) ∧
      (∀ r, r ≠ x → r ≠ regVF → t.getV r = s.getV r) ∧ Frame [.v] s t

/-- SUB and SUBN: the difference modulo 256 and the strict flag, 0 when the operands are equal; the flag is
written last (42_alu.md section 3; decision D7). -/
def Obligations.SubtractionsSetTheStrictFlag : Prop :=
  ∀ (x y : Reg) (s : State),
    (∃ t, exec (.subReg x y) s = .next t ∧
      (x ≠ regVF → (t.getV x).toNat = ((s.getV x).toNat + 256 - (s.getV y).toNat) % 256) ∧
      t.getV regVF = (if (s.getV x).toNat > (s.getV y).toNat then 1 else 0) ∧
      (∀ r, r ≠ x → r ≠ regVF → t.getV r = s.getV r) ∧ Frame [.v] s t) ∧
    (∃ t, exec (.subnReg x y) s = .next t ∧
      (x ≠ regVF → (t.getV x).toNat = ((s.getV y).toNat + 256 - (s.getV x).toNat) % 256) ∧
      t.getV regVF = (if (s.getV y).toNat > (s.getV x).toNat then 1 else 0) ∧
      (∀ r, r ≠ x → r ≠ regVF → t.getV r = s.getV r) ∧ Frame [.v] s t)

/-- SHR and SHL: half the value with its low bit in VF, twice the value modulo 256 with its high bit in VF,
of V[Y] in legacy mode and V[X] in modern mode; the flag is written last (42_alu.md section 3;
decisions D3 and D7). -/
def Obligations.ShiftsMoveABitIntoVF : Prop :=
  ∀ (x y : Reg) (s : State), let v := if s.launch.legacyMode then s.getV y else s.getV x
    (∃ t, exec (.shr x y) s = .next t ∧
      (x ≠ regVF → (t.getV x).toNat = v.toNat / 2) ∧ (t.getV regVF).toNat = v.toNat % 2 ∧
      (∀ r, r ≠ x → r ≠ regVF → t.getV r = s.getV r) ∧ Frame [.v] s t) ∧
    (∃ t, exec (.shl x y) s = .next t ∧
      (x ≠ regVF → (t.getV x).toNat = v.toNat * 2 % 256) ∧ (t.getV regVF).toNat = v.toNat / 128 ∧
      (∀ r, r ≠ x → r ≠ regVF → t.getV r = s.getV r) ∧ Frame [.v] s t)

/-- RND: a fresh draw masked by KK (42_alu.md section 4; decision D20). The draw is a free value (log entry
8): the statement holds whatever it is. -/
def Obligations.RndMasksAFreshDraw : Prop :=
  ∀ (x : Reg) (kk : Byte) (s : State), decode (wordXKK 0xC x kk) = .rnd x kk ∧
    ∃ t, exec (.rnd x kk) s = .next t ∧
      (∀ k < 8, (t.getV x).getLsbD k = ((Config.rnd s.rndDraws).getLsbD k && kk.getLsbD k)) ∧
      t.rndDraws = s.rndDraws + 1 ∧
      (∀ r, r ≠ x → t.getV r = s.getV r) ∧ Frame [.v, .rndDraws] s t

/-! ### Display -/

/-- R160: CLS. -/
def Obligations.ClsClearsEveryCell : Prop :=
  (∀ w : Word, decode w = .cls ↔ w = 0x00E0) ∧
  ∀ s : State, ∃ t, exec .cls s = .next t ∧ (∀ r c, r < 32 → c < 64 → t.fb.cell r c = false) ∧
    Frame [.fb] s t

/-- DRW: every cell is its old value XOR the clipped sprite, VF is 0 or 1, and nothing else changes
(43_display.md section 2; decisions D11 to D14). It completes when the drawn rows' bytes can all be
reached. -/
def Obligations.DrwXorsTheClippedSprite : Prop :=
  ∀ (x y : Reg) (n : Nibble) (s : State), decode (wordXYN 0xD x y n) = .drw x y n ∧
    (s.reaches s.i.toNat (s.spriteRows y n) → ∃ t, exec (.drw x y n) s = .next t ∧
      (∀ r c, r < 32 → c < 64 →
        t.fb.cell r c = (s.fb.cell r c ^^ s.spriteCovers x y n r c)) ∧
      (t.getV regVF = 0 ∨ t.getV regVF = 1) ∧ (∀ r, r ≠ regVF → t.getV r = s.getV r) ∧
      Frame [.v, .fb] s t)

/-- R162: the collision detector. VF is 1 exactly when a set sprite bit falls on a drawn cell that is on,
which is exactly when some cell goes from on to off, and otherwise VF is 0; VF is its only output. -/
def Obligations.CollisionIsACellTurnedOff : Prop :=
  ∀ (x y : Reg) (n : Nibble) (s : State), s.reaches s.i.toNat (s.spriteRows y n) →
    ∃ t, exec (.drw x y n) s = .next t ∧
      (t.getV regVF = 1 ↔
        ∃ r c, r < 32 ∧ c < 64 ∧ s.spriteCovers x y n r c = true ∧ s.fb.cell r c = true) ∧
      (t.getV regVF = 1 ↔
        ∃ r c, r < 32 ∧ c < 64 ∧ s.fb.cell r c = true ∧ t.fb.cell r c = false) ∧
      (t.getV regVF ≠ 1 → t.getV regVF = 0) ∧
      (∀ r, r ≠ regVF → t.getV r = s.getV r) ∧ Frame [.v, .fb] s t

/-- Drawing the same sprite at the same place twice restores the framebuffer, and the second draw collides
exactly when the first turned a cell on, if neither coordinate register is VF (43_display.md section 2,
which marks the consequence for VF as derived). -/
def Obligations.DrawingTwiceRestores : Prop :=
  ∀ (x y : Reg) (n : Nibble) (s : State), x ≠ regVF → y ≠ regVF →
    s.reaches s.i.toNat (s.spriteRows y n) →
    ∃ t u, exec (.drw x y n) s = .next t ∧ exec (.drw x y n) t = .next u ∧ u.fb = s.fb ∧
      (u.getV regVF = 1 ↔
        ∃ r c, r < 32 ∧ c < 64 ∧ s.fb.cell r c = false ∧ t.fb.cell r c = true)

/-- An instruction that would access an address past 0xFFF under ADDR_POLICY = FAULT halts with
ADDRESS_FAULT and does nothing else: DXYN, FX33, FX55, FX65 (20_memory.md section 4; decisions D2,
D13, D14). -/
def Obligations.AccessesPastMemoryFault : Prop :=
  ∀ (x y : Reg) (n : Nibble) (s : State),
    (¬ s.reaches s.i.toNat (s.spriteRows y n) → HaltsWith (.drw x y n) s .addressFault) ∧
    (¬ s.reaches s.i.toNat 3 → HaltsWith (.ldB x) s .addressFault) ∧
    (¬ s.reaches s.i.toNat (x.toNat + 1) → HaltsWith (.storeRegs x) s .addressFault) ∧
    (¬ s.reaches s.i.toNat (x.toNat + 1) → HaltsWith (.loadRegs x) s .addressFault)

/-! ### Index register, timers and memory -/

/-- R180: LD I, addr. -/
def Obligations.LdISetsI : Prop :=
  ∀ (nnn : Addr12) (s : State), decode (wordNNN 0xA nnn) = .ldI nnn ∧
    ∃ t, exec (.ldI nnn) s = .next t ∧ t.i.toNat = nnn.toNat ∧ Frame [.i] s t

/-- R181: LD Vx, DT. -/
def Obligations.LdVxDtReadsTheDelayTimer : Prop :=
  ∀ (x : Reg) (s : State), decode (wordXKK 0xF x 0x07) = .ldVxDt x ∧
    ∃ t, exec (.ldVxDt x) s = .next t ∧ t.getV x = s.dt ∧
      (∀ r, r ≠ x → t.getV r = s.getV r) ∧ Frame [.v] s t

/-- LD DT, Vx; an FX07 that follows reads the value back, one less after a tick, and a written 0 stays 0
(44_index_timer_memory.md section 2; the read after a tick is 70_reset_and_hazards.md section 2, which
the spec marks as derived; the tick itself is decision D18). -/
def Obligations.LdDtVxSetsTheDelayTimer : Prop :=
  ∀ (x : Reg) (s : State), decode (wordXKK 0xF x 0x15) = .ldDtVx x ∧
    ∃ t, exec (.ldDtVx x) s = .next t ∧ t.dt = s.getV x ∧ Frame [.dt] s t ∧
      (∀ z, ∃ u, exec (.ldVxDt z) t = .next u ∧ u.getV z = s.getV x) ∧
      (∀ z, ∃ u, exec (.ldVxDt z) t.tick = .next u ∧
        (u.getV z).toNat = (s.getV x).toNat - 1)

/-- R183: LD ST, Vx; ST is visible as an output. -/
def Obligations.LdStVxSetsTheSoundTimer : Prop :=
  ∀ (x : Reg) (s : State), decode (wordXKK 0xF x 0x18) = .ldStVx x ∧
    ∃ t, exec (.ldStVx x) s = .next t ∧ t.st = s.getV x ∧ t.outputs.st = s.getV x ∧ Frame [.st] s t

/-- ADD I, Vx: the sum modulo 2^16; VF is set to 1 in modern mode when the exact sum passes 0xFFF, and is
otherwise untouched (44_index_timer_memory.md section 3; decisions D4 and D10). -/
def Obligations.AddIKeepsSixteenBits : Prop :=
  ∀ (x : Reg) (s : State), decode (wordXKK 0xF x 0x1E) = .addI x ∧
    ∃ t, exec (.addI x) s = .next t ∧
      t.i.toNat = (s.i.toNat + (s.getV x).toNat) % 65536 ∧
      t.getV regVF = (if s.launch.legacyMode = false ∧ s.i.toNat + (s.getV x).toNat > 0x0FFF then 1
        else s.getV regVF) ∧
      (∀ r, r ≠ regVF → t.getV r = s.getV r) ∧ Frame [.i, .v] s t

/-- R185: LD F, Vx; only the low nibble counts and the result lies in the font. -/
def Obligations.LdFPointsAtTheGlyph : Prop :=
  ∀ (x : Reg) (s : State), decode (wordXKK 0xF x 0x29) = .ldF x ∧
    ∃ t, exec (.ldF x) s = .next t ∧ t.i.toNat = 0x050 + 5 * ((s.getV x).toNat % 16) ∧
      0x050 ≤ t.i.toNat ∧ t.i.toNat ≤ 0x09B ∧ Frame [.i] s t

/-- LD B, Vx: the three decimal digits, hundreds first, at the effective addresses of I, I + 1 and I + 2, and
every other byte as before (44_index_timer_memory.md section 4; decisions D2 and D14). The premise on
memory is part of the invariant. -/
def Obligations.LdBStoresDecimalDigits : Prop :=
  ∀ (x : Reg) (s : State), Memory.wf s.launch.fontTable s.mem = true → s.reaches s.i.toNat 3 →
    decode (wordXKK 0xF x 0x33) = .ldB x ∧
    ∃ t, exec (.ldB x) s = .next t ∧
      (∀ p, s.ea s.i.toNat = some p → (t.byteAt p).toNat = (s.getV x).toNat / 100) ∧
      (∀ p, s.ea (s.i.toNat + 1) = some p → (t.byteAt p).toNat = (s.getV x).toNat / 10 % 10) ∧
      (∀ p, s.ea (s.i.toNat + 2) = some p → (t.byteAt p).toNat = (s.getV x).toNat % 10) ∧
      (∀ p, (∀ k < 3, s.ea (s.i.toNat + k) ≠ some p) → t.byteAt p = s.byteAt p) ∧
      Frame [.mem] s t

/-- LD [I], Vx: V[0..X] at the effective addresses of I, I + 1, ..., every other byte as before, and I moved
on in legacy mode only (44_index_timer_memory.md section 4; decisions D2, D9, D14). The premise on
memory is part of the invariant. -/
def Obligations.StoreRegsStoresTheBlock : Prop :=
  ∀ (x : Reg) (s : State), Memory.wf s.launch.fontTable s.mem = true →
    s.reaches s.i.toNat (x.toNat + 1) →
    decode (wordXKK 0xF x 0x55) = .storeRegs x ∧
    ∃ t, exec (.storeRegs x) s = .next t ∧
      (∀ (r : Reg) (p : Nat), r.toNat ≤ x.toNat → s.ea (s.i.toNat + r.toNat) = some p →
        t.byteAt p = s.getV r) ∧
      (∀ p, (∀ k ≤ x.toNat, s.ea (s.i.toNat + k) ≠ some p) → t.byteAt p = s.byteAt p) ∧
      t.i.toNat = (if s.launch.legacyMode then (s.i.toNat + x.toNat + 1) % 65536 else s.i.toNat) ∧
      Frame [.mem, .i] s t

/-- LD Vx, [I]: V[0..X] from the effective addresses of I, I + 1, ..., the other registers as before, and I
moved on in legacy mode only (44_index_timer_memory.md section 4; decisions D2, D9, D14). -/
def Obligations.LoadRegsLoadsTheBlock : Prop :=
  ∀ (x : Reg) (s : State), s.reaches s.i.toNat (x.toNat + 1) →
    decode (wordXKK 0xF x 0x65) = .loadRegs x ∧
    ∃ t, exec (.loadRegs x) s = .next t ∧
      (∀ (r : Reg) (p : Nat), r.toNat ≤ x.toNat → s.ea (s.i.toNat + r.toNat) = some p →
        t.getV r = s.byteAt p) ∧
      (∀ r : Reg, x.toNat < r.toNat → t.getV r = s.getV r) ∧
      t.i.toNat = (if s.launch.legacyMode then (s.i.toNat + x.toNat + 1) % 65536 else s.i.toNat) ∧
      Frame [.v, .i] s t

/-- R28: DT is written by FX15, read by FX07 and counted down to zero by ticks. -/
def Obligations.DelayTimerIsAnEightBitCounter : Prop :=
  ∀ (x : Reg) (s : State),
    (∃ t, exec (.ldDtVx x) s = .next t ∧ t.dt = s.getV x) ∧
    (∃ t, exec (.ldVxDt x) s = .next t ∧ t.getV x = s.dt) ∧
    (s.tickDue = true → ∃ t, step s = .next t ∧
      t.dt.toNat = (if 0 < s.dt.toNat then s.dt.toNat - 1 else 0))

/-- R29: ST is written by FX18, read by no instruction, counted down to zero by ticks, and exported. -/
def Obligations.SoundTimerIsReadByNoInstruction : Prop :=
  (∀ (x : Reg) (s : State), ∃ t, exec (.ldStVx x) s = .next t ∧ t.st = s.getV x) ∧
  (∀ (i : Instr) (s : State) (b : Byte), (∀ x, i ≠ .ldStVx x) →
    exec i (s.setSt b) = mapNext (·.setSt b) (exec i s)) ∧
  (∀ (x : Reg) (s : State) (b : Byte), exec (.ldStVx x) (s.setSt b) = exec (.ldStVx x) s) ∧
  (∀ s : State, s.tickDue = true → ∃ t, step s = .next t ∧
    t.st.toNat = (if 0 < s.st.toNat then s.st.toNat - 1 else 0)) ∧
  (∀ s : State, s.outputs.st = s.st)
end

