-- ==== Sys2Proof/Laws/Encoding.lean ====
section
/-! SUPPORT. The fields of a word that was put together from fields, and a word put together from its own fields
(spec/30_encoding.md R70). -/

namespace Sys2Proof

theorem toNat_append (m n : Nat) (a : BitVec m) (b : BitVec n) :
    (a ++ b).toNat = a.toNat * 2 ^ n + b.toNat := by
  rw [BitVec.toNat_append, ← Nat.shiftLeft_add_eq_or_of_lt b.isLt, Nat.shiftLeft_eq]

/-! ### The words as numbers -/

theorem toNat_wordNNN (f : Nibble) (nnn : Addr12) :
    (wordNNN f nnn).toNat = f.toNat * 4096 + nnn.toNat := toNat_append 4 12 f nnn

theorem toNat_wordXKK (f : Nibble) (x : Reg) (kk : Byte) :
    (wordXKK f x kk).toNat = f.toNat * 4096 + x.toNat * 256 + kk.toNat := by
  have h : (wordXKK f x kk).toNat = (f ++ x ++ kk).toNat := rfl
  rw [h, toNat_append, toNat_append]
  omega

theorem toNat_wordXYN (f : Nibble) (x y : Reg) (n : Nibble) :
    (wordXYN f x y n).toNat = f.toNat * 4096 + x.toNat * 256 + y.toNat * 16 + n.toNat := by
  have h : (wordXYN f x y n).toNat = (f ++ x ++ y ++ n).toNat := rfl
  rw [h, toNat_append, toNat_append, toNat_append]
  omega

theorem toNat_wordOfBytes (hi lo : Byte) : (wordOfBytes hi lo).toNat = hi.toNat * 256 + lo.toNat :=
  toNat_append 8 8 hi lo

/-! ### The fields as numbers -/

theorem toNat_fieldF (w : Word) : (fieldF w).toNat = w.toNat / 4096 % 16 := by
  simp [fieldF, BitVec.extractLsb'_toNat, Nat.shiftRight_eq_div_pow]
theorem toNat_fieldX (w : Word) : (fieldX w).toNat = w.toNat / 256 % 16 := by
  simp [fieldX, BitVec.extractLsb'_toNat, Nat.shiftRight_eq_div_pow]
theorem toNat_fieldY (w : Word) : (fieldY w).toNat = w.toNat / 16 % 16 := by
  simp [fieldY, BitVec.extractLsb'_toNat, Nat.shiftRight_eq_div_pow]
theorem toNat_fieldN (w : Word) : (fieldN w).toNat = w.toNat % 16 := by
  simp [fieldN, BitVec.extractLsb'_toNat]
theorem toNat_fieldKK (w : Word) : (fieldKK w).toNat = w.toNat % 256 := by
  simp [fieldKK, BitVec.extractLsb'_toNat]
theorem toNat_fieldNNN (w : Word) : (fieldNNN w).toNat = w.toNat % 4096 := by
  simp [fieldNNN, BitVec.extractLsb'_toNat]
theorem toNat_highByte (w : Word) : (highByte w).toNat = w.toNat / 256 := by
  have := w.isLt
  simp only [highByte, BitVec.extractLsb'_toNat, Nat.shiftRight_eq_div_pow]
  omega
theorem toNat_lowByte (w : Word) : (lowByte w).toNat = w.toNat % 256 := by
  simp [lowByte, BitVec.extractLsb'_toNat]

/-! ### The fields of a word put together from fields -/

@[simp] theorem fieldF_wordNNN (f nnn) : fieldF (wordNNN f nnn) = f := by
  apply BitVec.eq_of_toNat_eq; rw [toNat_fieldF, toNat_wordNNN]; omega
@[simp] theorem fieldNNN_wordNNN (f nnn) : fieldNNN (wordNNN f nnn) = nnn := by
  apply BitVec.eq_of_toNat_eq; rw [toNat_fieldNNN, toNat_wordNNN]; omega
@[simp] theorem fieldF_wordXKK (f x kk) : fieldF (wordXKK f x kk) = f := by
  apply BitVec.eq_of_toNat_eq; rw [toNat_fieldF, toNat_wordXKK]; omega
@[simp] theorem fieldX_wordXKK (f x kk) : fieldX (wordXKK f x kk) = x := by
  apply BitVec.eq_of_toNat_eq; rw [toNat_fieldX, toNat_wordXKK]; omega
@[simp] theorem fieldKK_wordXKK (f x kk) : fieldKK (wordXKK f x kk) = kk := by
  apply BitVec.eq_of_toNat_eq; rw [toNat_fieldKK, toNat_wordXKK]; omega
@[simp] theorem fieldF_wordXYN (f x y n) : fieldF (wordXYN f x y n) = f := by
  apply BitVec.eq_of_toNat_eq; rw [toNat_fieldF, toNat_wordXYN]; omega
@[simp] theorem fieldX_wordXYN (f x y n) : fieldX (wordXYN f x y n) = x := by
  apply BitVec.eq_of_toNat_eq; rw [toNat_fieldX, toNat_wordXYN]; omega
@[simp] theorem fieldY_wordXYN (f x y n) : fieldY (wordXYN f x y n) = y := by
  apply BitVec.eq_of_toNat_eq; rw [toNat_fieldY, toNat_wordXYN]; omega
@[simp] theorem fieldN_wordXYN (f x y n) : fieldN (wordXYN f x y n) = n := by
  apply BitVec.eq_of_toNat_eq; rw [toNat_fieldN, toNat_wordXYN]; omega

/-! ### A word put together from its own fields -/

@[simp] theorem wordNNN_fields (w : Word) : wordNNN (fieldF w) (fieldNNN w) = w := by
  apply BitVec.eq_of_toNat_eq; rw [toNat_wordNNN, toNat_fieldF, toNat_fieldNNN]; omega
@[simp] theorem wordXKK_fields (w : Word) : wordXKK (fieldF w) (fieldX w) (fieldKK w) = w := by
  apply BitVec.eq_of_toNat_eq; rw [toNat_wordXKK, toNat_fieldF, toNat_fieldX, toNat_fieldKK]; omega
@[simp] theorem wordXYN_fields (w : Word) : wordXYN (fieldF w) (fieldX w) (fieldY w) (fieldN w) = w := by
  apply BitVec.eq_of_toNat_eq
  rw [toNat_wordXYN, toNat_fieldF, toNat_fieldX, toNat_fieldY, toNat_fieldN]; omega

/-- The bytes a word is stored as make that word again when they are fetched (R53). -/
@[simp] theorem wordOfBytes_bytes (w : Word) : wordOfBytes (highByte w) (lowByte w) = w := by
  apply BitVec.eq_of_toNat_eq; rw [toNat_wordOfBytes, toNat_highByte, toNat_lowByte]; omega

end Sys2Proof
end

