-- ==== Sys2Proof/Laws/Framebuffer.lean ====
section
/-! SUPPORT. What the pixel-XOR engine and the collision detector do to each cell (spec/43_display.md R161 to R164):
the drawing loop said cell by cell. -/

namespace Sys2Proof.Machine

@[simp] theorem cell_blank (r c : Nat) : Framebuffer.blank.cell r c = false := by
  unfold Framebuffer.cell Framebuffer.blank
  split <;> simp

/-- Two framebuffers with the same cells are the same. -/
theorem framebuffer_ext (f g : Framebuffer)
    (h : ∀ r c, r < Config.fbHeight → c < Config.fbWidth → f.cell r c = g.cell r c) : f = g := by
  apply Vector.ext; intro r hr
  apply Vector.ext; intro c hc
  have := h r c hr hc
  simpa [Framebuffer.cell, hr, hc] using this

/-- A toggle flips its own cell and no other. -/
theorem cell_toggle (fb : Framebuffer) (r c r' c' : Nat) (hr : r < Config.fbHeight)
    (hc : c < Config.fbWidth) :
    (fb.toggle r c).cell r' c' = (fb.cell r' c' ^^ (decide (r' = r) && decide (c' = c))) := by
  unfold Framebuffer.toggle Framebuffer.cell
  rw [dif_pos (show r < Config.fbHeight ∧ c < Config.fbWidth from ⟨hr, hc⟩)]
  by_cases h' : r' < Config.fbHeight ∧ c' < Config.fbWidth
  · rw [dif_pos h', dif_pos h']
    by_cases h1 : r' = r
    · subst h1
      by_cases h2 : c' = c
      · subst h2; simp
      · simp [h2, Ne.symm h2]
    · simp [h1, Ne.symm h1]
  · rw [dif_neg h', dif_neg h']
    have : ¬ (r' = r ∧ c' = c) := fun e => h' ⟨by rw [e.1]; exact hr, by rw [e.2]; exact hc⟩
    simpa using this

/-- A plot flips its cell if the sprite bit is set. -/
theorem cell_plot (d : Canvas) (bit : Bool) (r c r' c' : Nat) (hr : r < Config.fbHeight)
    (hc : c < Config.fbWidth) :
    (d.plot bit r c).fb.cell r' c' = (d.fb.cell r' c' ^^ (decide (r' = r) && decide (c' = c) && bit)) := by
  cases bit with
  | false => simp [Canvas.plot]
  | true => simp [Canvas.plot, cell_toggle d.fb r c r' c' hr hc]

theorem hit_plot (d : Canvas) (bit : Bool) (r c : Nat) :
    (d.plot bit r c).hit = (d.hit || (bit && d.fb.cell r c)) := by
  cases bit <;> simp [Canvas.plot]

/-- One sprite row: the cells it flips, and whether one of them was on (R162, R163). -/
theorem plotRow_spec (d : Canvas) (b : Byte) (r cx cols : Nat) (hr : r < Config.fbHeight)
    (hc : cx + cols ≤ Config.fbWidth) :
    (∀ r' c', (d.plotRow b r cx cols).fb.cell r' c' =
        (d.fb.cell r' c' ^^
          (decide (r' = r ∧ cx ≤ c' ∧ c' < cx + cols) && spriteBit b (c' - cx)))) ∧
      ((d.plotRow b r cx cols).hit = true ↔
        d.hit = true ∨ ∃ k < cols, spriteBit b k = true ∧ d.fb.cell r (cx + k) = true) := by
  induction cols with
  | zero =>
    refine ⟨fun r' c' => ?_, by simp [Canvas.plotRow]⟩
    rw [decide_eq_false (by omega)]; simp [Canvas.plotRow]
  | succ n ih =>
    obtain ⟨ih1, ih2⟩ := ih (by omega)
    have hstep : d.plotRow b r cx (n + 1) =
        (d.plotRow b r cx n).plot (spriteBit b n) r (cx + n) := by
      simp [Canvas.plotRow, List.range_succ]
    rw [hstep]
    constructor
    · intro r' c'
      rw [cell_plot _ _ _ _ _ _ hr (by omega), ih1]
      by_cases h1 : r' = r <;> by_cases h2 : c' = cx + n
      · subst h1; subst h2
        simp
      · have : (r' = r ∧ cx ≤ c' ∧ c' < cx + n) ↔ (r' = r ∧ cx ≤ c' ∧ c' < cx + (n + 1)) := by omega
        simp [h2, this]
      · simp [h1]
      · simp [h1]
    · rw [hit_plot, ih1, Bool.or_eq_true, ih2, Bool.and_eq_true]
      have hcell : (d.fb.cell r (cx + n) ^^
          (decide (r = r ∧ cx ≤ cx + n ∧ cx + n < cx + n) && spriteBit b (cx + n - cx))) =
            d.fb.cell r (cx + n) := by simp
      rw [hcell]
      constructor
      · rintro ((h | ⟨k, hk, h⟩) | h)
        · exact .inl h
        · exact .inr ⟨k, by omega, h⟩
        · exact .inr ⟨n, by omega, h⟩
      · rintro (h | ⟨k, hk, h⟩)
        · exact .inl (.inl h)
        · rcases Nat.lt_succ_iff_lt_or_eq.1 hk with hk | rfl
          · exact .inl (.inr ⟨k, hk, h⟩)
          · exact .inr h

/-- All the sprite's drawn rows: the cells they flip, and whether one of them was on (R161 to R163). -/
theorem plotRows_spec (bs : List Byte) (d : Canvas) (r cx cols : Nat)
    (hr : r + bs.length ≤ Config.fbHeight) (hc : cx + cols ≤ Config.fbWidth) :
    (∀ r' c', (d.plotRows r cx cols bs).fb.cell r' c' =
        (d.fb.cell r' c' ^^
          (decide (r ≤ r' ∧ r' < r + bs.length ∧ cx ≤ c' ∧ c' < cx + cols) &&
            spriteBit (bs.getD (r' - r) 0) (c' - cx)))) ∧
      ((d.plotRows r cx cols bs).hit = true ↔
        d.hit = true ∨ ∃ j < bs.length, ∃ k < cols,
          spriteBit (bs.getD j 0) k = true ∧ d.fb.cell (r + j) (cx + k) = true) := by
  induction bs generalizing d r with
  | nil =>
    refine ⟨fun r' c' => ?_, by simp [Canvas.plotRows]⟩
    rw [decide_eq_false (by simp; omega)]; simp [Canvas.plotRows]
  | cons b bs ih =>
    simp only [List.length_cons] at hr
    obtain ⟨row1, row2⟩ := plotRow_spec d b r cx cols (by omega) hc
    obtain ⟨ih1, ih2⟩ := ih (d.plotRow b r cx cols) (r + 1) (by omega)
    constructor
    · intro r' c'
      rw [Canvas.plotRows, ih1, row1, List.length_cons]
      by_cases h1 : r' = r
      · subst h1
        simp
      · by_cases h2 : r < r'
        · obtain ⟨j, hj⟩ : ∃ j, r' - r = j + 1 := ⟨r' - r - 1, by omega⟩
          have h3 : r' - (r + 1) = j := by omega
          have h4 : (r + 1 ≤ r' ∧ r' < r + 1 + bs.length ∧ cx ≤ c' ∧ c' < cx + cols) ↔
              (r ≤ r' ∧ r' < r + (bs.length + 1) ∧ cx ≤ c' ∧ c' < cx + cols) := by omega
          rw [decide_eq_false (p := r' = r ∧ _) (by omega), h3, hj]
          simp only [h4]
          simp
        · have h3 : ¬ (r + 1 ≤ r' ∧ r' < r + 1 + bs.length ∧ cx ≤ c' ∧ c' < cx + cols) := by omega
          have h4 : ¬ (r ≤ r' ∧ r' < r + (bs.length + 1) ∧ cx ≤ c' ∧ c' < cx + cols) := by omega
          rw [decide_eq_false (p := r' = r ∧ _) (by omega), decide_eq_false h3, decide_eq_false h4]
          simp
    · rw [Canvas.plotRows, ih2, row2]
      have hcell : ∀ j k, (d.plotRow b r cx cols).fb.cell (r + 1 + j) (cx + k) =
          d.fb.cell (r + (j + 1)) (cx + k) := fun j k => by
        rw [row1, decide_eq_false (by omega), show r + 1 + j = r + (j + 1) by omega]; simp
      constructor
      · rintro ((h | ⟨k, hk, h⟩) | ⟨j, hj, k, hk, h⟩)
        · exact .inl h
        · exact .inr ⟨0, by simp, k, hk, by simpa using h⟩
        · exact .inr ⟨j + 1, by simpa using hj, k, hk, by simpa [hcell] using h⟩
      · rintro (h | ⟨j, hj, k, hk, h⟩)
        · exact .inl (.inl h)
        · cases j with
          | zero => exact .inl (.inr ⟨k, hk, by simpa using h⟩)
          | succ j => exact .inr ⟨j, by simpa using hj, k, hk, by simpa [hcell] using h⟩

end Sys2Proof.Machine
end

