-- ==== Sys2Proof/Laws/Memory.lean ====
section
/-! SUPPORT. What reading and writing memory do: a read after a write (spec/20_memory.md R59), and that every memory
operation keeps the canonical form, in which equal memories are equal lists. -/

namespace Sys2Proof.Machine

/-- Every entry of the list has an address above `a`. -/
abbrev Memory.Above (a : Nat) (m : List Host.Cell) : Prop := ∀ c ∈ m, a < c.1

theorem Memory.sorted_cons (a : Nat) (b : Byte) (m : List Host.Cell) :
    Memory.sorted ((a, b) :: m) = true ↔ Memory.Above a m ∧ Memory.sorted m = true := by
  simp [Memory.sorted, Memory.Above]

theorem Memory.wf_iff (font) (m : List Host.Cell) :
    Memory.wf font m = true ↔
      Memory.sorted m = true ∧ ∀ c ∈ m, c.1 < Config.memSize ∧ c.2 ≠ Memory.unlisted font c.1 := by
  simp [Memory.wf]

@[simp] theorem Memory.wf_nil (font) : Memory.wf font [] = true := rfl

@[simp] theorem Memory.read_nil (font) (a : Nat) : Memory.read font [] a = Memory.unlisted font a := rfl

theorem Memory.lookup_of_above (a : Nat) (m : List Host.Cell) (h : Memory.Above a m) :
    Memory.lookup m a = none := by
  induction m with
  | nil => rfl
  | cons c m ih =>
    have hc : a < c.1 := h c List.mem_cons_self
    simp only [Memory.lookup, if_neg (show c.1 ≠ a by omega)]
    exact ih fun d hd => h d (List.mem_cons_of_mem _ hd)

theorem Memory.lookup_insert (m : List Host.Cell) (a : Nat) (b : Byte) (k : Nat) :
    Memory.lookup (Memory.insert m a b) k = if k = a then some b else Memory.lookup m k := by
  induction m with
  | nil => by_cases h : a = k <;> simp [Memory.insert, Memory.lookup, h, eq_comm]
  | cons c m ih =>
    obtain ⟨j, d⟩ := c
    simp only [Memory.insert]
    split_ifs with h1 h2 h3 h4 <;> simp only [Memory.lookup] <;> split_ifs <;>
      first | rfl | omega | simp_all

theorem Memory.lookup_erase (m : List Host.Cell) (a k : Nat) (h : Memory.sorted m = true) :
    Memory.lookup (Memory.erase m a) k = if k = a then none else Memory.lookup m k := by
  induction m with
  | nil => simp [Memory.erase, Memory.lookup]
  | cons c m ih =>
    obtain ⟨j, d⟩ := c
    obtain ⟨hj, hm⟩ := (Memory.sorted_cons j d m).1 h
    simp only [Memory.erase]
    by_cases hja : j = a
    · subst hja
      by_cases hk : k = j
      · simp [hk, Memory.lookup_of_above j m hj]
      · simp [hk, Memory.lookup, Ne.symm hk]
    · simp only [if_neg hja, Memory.lookup, ih hm]
      by_cases hk : j = k
      · subst hk; simp [hja]
      · simp [hk]

/-- A read after a write: the byte written at its own address, the older byte at every other. -/
theorem Memory.read_write (font) (m : List Host.Cell) (a : Nat) (b : Byte) (k : Nat)
    (h : Memory.sorted m = true) :
    Memory.read font (Memory.write font m a b) k = if k = a then b else Memory.read font m k := by
  unfold Memory.read Memory.write
  by_cases hb : b = Memory.unlisted font a
  · rw [if_pos hb, Memory.lookup_erase m a k h]
    by_cases hk : k = a <;> simp [hk, hb]
  · rw [if_neg hb, Memory.lookup_insert]
    by_cases hk : k = a <;> simp [hk]

theorem Memory.mem_insert (m : List Host.Cell) (a : Nat) (b : Byte) (c : Host.Cell)
    (hc : c ∈ Memory.insert m a b) : c = (a, b) ∨ c ∈ m := by
  induction m with
  | nil => simpa [Memory.insert] using hc
  | cons d m ih =>
    simp only [Memory.insert] at hc
    split_ifs at hc
    · simpa using hc
    · rcases List.mem_cons.1 hc with rfl | hc
      · exact .inl rfl
      · exact .inr (List.mem_cons_of_mem _ hc)
    · rcases List.mem_cons.1 hc with rfl | hc
      · exact .inr List.mem_cons_self
      · exact (ih hc).imp_right (List.mem_cons_of_mem _)

theorem Memory.mem_erase (m : List Host.Cell) (a : Nat) (c : Host.Cell)
    (hc : c ∈ Memory.erase m a) : c ∈ m := by
  induction m with
  | nil => exact hc
  | cons d m ih =>
    simp only [Memory.erase] at hc
    split_ifs at hc
    · exact List.mem_cons_of_mem _ hc
    · rcases List.mem_cons.1 hc with rfl | hc
      · exact List.mem_cons_self
      · exact List.mem_cons_of_mem _ (ih hc)

theorem Memory.sorted_insert (m : List Host.Cell) (a : Nat) (b : Byte) (h : Memory.sorted m = true) :
    Memory.sorted (Memory.insert m a b) = true := by
  induction m with
  | nil => rfl
  | cons c m ih =>
    obtain ⟨j, d⟩ := c
    obtain ⟨hj, hm⟩ := (Memory.sorted_cons j d m).1 h
    simp only [Memory.insert]
    split_ifs with h1 h2
    · refine (Memory.sorted_cons a b _).2 ⟨fun c hc => ?_, h⟩
      rcases List.mem_cons.1 hc with rfl | hc
      · exact h1
      · exact h1.trans (hj c hc)
    · subst h2; exact (Memory.sorted_cons a b m).2 ⟨hj, hm⟩
    · refine (Memory.sorted_cons j d _).2 ⟨fun c hc => ?_, ih hm⟩
      rcases Memory.mem_insert m a b c hc with rfl | hc
      · show j < a; omega
      · exact hj c hc

theorem Memory.sorted_erase (m : List Host.Cell) (a : Nat) (h : Memory.sorted m = true) :
    Memory.sorted (Memory.erase m a) = true := by
  induction m with
  | nil => rfl
  | cons c m ih =>
    obtain ⟨j, d⟩ := c
    obtain ⟨hj, hm⟩ := (Memory.sorted_cons j d m).1 h
    simp only [Memory.erase]
    split_ifs
    · exact hm
    · exact (Memory.sorted_cons j d _).2 ⟨fun c hc => hj c (Memory.mem_erase m a c hc), ih hm⟩

/-- A write below 4096 keeps the canonical form. -/
theorem Memory.wf_write (font) (m : List Host.Cell) (a : Nat) (b : Byte)
    (h : Memory.wf font m = true) (ha : a < Config.memSize) :
    Memory.wf font (Memory.write font m a b) = true := by
  obtain ⟨hs, hall⟩ := (Memory.wf_iff font m).1 h
  unfold Memory.write
  split_ifs with hb
  · exact (Memory.wf_iff font _).2
      ⟨Memory.sorted_erase m a hs, fun c hc => hall c (Memory.mem_erase m a c hc)⟩
  · refine (Memory.wf_iff font _).2 ⟨Memory.sorted_insert m a b hs, fun c hc => ?_⟩
    rcases Memory.mem_insert m a b c hc with rfl | hc
    · exact ⟨ha, hb⟩
    · exact hall c hc

/-- Copying a list of bytes below 4096 keeps the canonical form. -/
theorem Memory.wf_writeList (font) (bs : List Byte) (m : List Host.Cell) (a : Nat)
    (h : Memory.wf font m = true) (ha : a + bs.length ≤ Config.memSize) :
    Memory.wf font (Memory.writeList font m a bs) = true := by
  induction bs generalizing m a with
  | nil => exact h
  | cons b bs ih =>
    simp only [List.length_cons] at ha
    exact ih _ (a + 1) (Memory.wf_write font m a b h (by omega)) (by omega)

end Sys2Proof.Machine
end

