-- ==== Sys2Proof/Laws/State.lean ====
section
/-! SUPPORT. What each update of the state does to each field: one lemma per field per update, true by `rfl`, so that
no proof unfolds a record update. The updates that can raise a halt have their lemmas in Laws/Ops.lean. -/

namespace Sys2Proof.Machine

variable (s : State)

/-! ### setV -/

@[simp] theorem State.setV_v (x : Reg) (b : Byte) : (s.setV x b).v = s.v.set x.toNat b x.isLt := rfl
@[simp] theorem State.setV_pc (x : Reg) (b : Byte) : (s.setV x b).pc = s.pc := rfl
@[simp] theorem State.setV_i (x : Reg) (b : Byte) : (s.setV x b).i = s.i := rfl
@[simp] theorem State.setV_stk (x : Reg) (b : Byte) : (s.setV x b).stk = s.stk := rfl
@[simp] theorem State.setV_sp (x : Reg) (b : Byte) : (s.setV x b).sp = s.sp := rfl
@[simp] theorem State.setV_dt (x : Reg) (b : Byte) : (s.setV x b).dt = s.dt := rfl
@[simp] theorem State.setV_st (x : Reg) (b : Byte) : (s.setV x b).st = s.st := rfl
@[simp] theorem State.setV_fb (x : Reg) (b : Byte) : (s.setV x b).fb = s.fb := rfl
@[simp] theorem State.setV_mem (x : Reg) (b : Byte) : (s.setV x b).mem = s.mem := rfl
@[simp] theorem State.setV_fsm (x : Reg) (b : Byte) : (s.setV x b).fsm = s.fsm := rfl
@[simp] theorem State.setV_ir (x : Reg) (b : Byte) : (s.setV x b).ir = s.ir := rfl
@[simp] theorem State.setV_haltCause (x : Reg) (b : Byte) : (s.setV x b).haltCause = s.haltCause := rfl
@[simp] theorem State.setV_ticked (x : Reg) (b : Byte) : (s.setV x b).ticked = s.ticked := rfl
@[simp] theorem State.setV_launch (x : Reg) (b : Byte) : (s.setV x b).launch = s.launch := rfl
@[simp] theorem State.setV_runEn (x : Reg) (b : Byte) : (s.setV x b).runEn = s.runEn := rfl
@[simp] theorem State.setV_tickStrobe (x : Reg) (b : Byte) : (s.setV x b).tickStrobe = s.tickStrobe := rfl
@[simp] theorem State.setV_tickDraws (x : Reg) (b : Byte) : (s.setV x b).tickDraws = s.tickDraws := rfl
@[simp] theorem State.setV_rndDraws (x : Reg) (b : Byte) : (s.setV x b).rndDraws = s.rndDraws := rfl

/-! ### setFlag -/

@[simp] theorem State.setFlag_v (c : Bool) : (s.setFlag c).v = s.v.set regVF.toNat (boolByte c) regVF.isLt := rfl
@[simp] theorem State.setFlag_pc (c : Bool) : (s.setFlag c).pc = s.pc := rfl
@[simp] theorem State.setFlag_i (c : Bool) : (s.setFlag c).i = s.i := rfl
@[simp] theorem State.setFlag_stk (c : Bool) : (s.setFlag c).stk = s.stk := rfl
@[simp] theorem State.setFlag_sp (c : Bool) : (s.setFlag c).sp = s.sp := rfl
@[simp] theorem State.setFlag_dt (c : Bool) : (s.setFlag c).dt = s.dt := rfl
@[simp] theorem State.setFlag_st (c : Bool) : (s.setFlag c).st = s.st := rfl
@[simp] theorem State.setFlag_fb (c : Bool) : (s.setFlag c).fb = s.fb := rfl
@[simp] theorem State.setFlag_mem (c : Bool) : (s.setFlag c).mem = s.mem := rfl
@[simp] theorem State.setFlag_fsm (c : Bool) : (s.setFlag c).fsm = s.fsm := rfl
@[simp] theorem State.setFlag_ir (c : Bool) : (s.setFlag c).ir = s.ir := rfl
@[simp] theorem State.setFlag_haltCause (c : Bool) : (s.setFlag c).haltCause = s.haltCause := rfl
@[simp] theorem State.setFlag_ticked (c : Bool) : (s.setFlag c).ticked = s.ticked := rfl
@[simp] theorem State.setFlag_launch (c : Bool) : (s.setFlag c).launch = s.launch := rfl
@[simp] theorem State.setFlag_runEn (c : Bool) : (s.setFlag c).runEn = s.runEn := rfl
@[simp] theorem State.setFlag_tickStrobe (c : Bool) : (s.setFlag c).tickStrobe = s.tickStrobe := rfl
@[simp] theorem State.setFlag_tickDraws (c : Bool) : (s.setFlag c).tickDraws = s.tickDraws := rfl
@[simp] theorem State.setFlag_rndDraws (c : Bool) : (s.setFlag c).rndDraws = s.rndDraws := rfl

/-! ### setResultFlag -/

@[simp] theorem State.setResultFlag_pc (x : Reg) (r : Byte) (c : Bool) : (s.setResultFlag x r c).pc = s.pc := rfl
@[simp] theorem State.setResultFlag_i (x : Reg) (r : Byte) (c : Bool) : (s.setResultFlag x r c).i = s.i := rfl
@[simp] theorem State.setResultFlag_stk (x : Reg) (r : Byte) (c : Bool) : (s.setResultFlag x r c).stk = s.stk := rfl
@[simp] theorem State.setResultFlag_sp (x : Reg) (r : Byte) (c : Bool) : (s.setResultFlag x r c).sp = s.sp := rfl
@[simp] theorem State.setResultFlag_dt (x : Reg) (r : Byte) (c : Bool) : (s.setResultFlag x r c).dt = s.dt := rfl
@[simp] theorem State.setResultFlag_st (x : Reg) (r : Byte) (c : Bool) : (s.setResultFlag x r c).st = s.st := rfl
@[simp] theorem State.setResultFlag_fb (x : Reg) (r : Byte) (c : Bool) : (s.setResultFlag x r c).fb = s.fb := rfl
@[simp] theorem State.setResultFlag_mem (x : Reg) (r : Byte) (c : Bool) : (s.setResultFlag x r c).mem = s.mem := rfl
@[simp] theorem State.setResultFlag_fsm (x : Reg) (r : Byte) (c : Bool) : (s.setResultFlag x r c).fsm = s.fsm := rfl
@[simp] theorem State.setResultFlag_ir (x : Reg) (r : Byte) (c : Bool) : (s.setResultFlag x r c).ir = s.ir := rfl
@[simp] theorem State.setResultFlag_haltCause (x : Reg) (r : Byte) (c : Bool) : (s.setResultFlag x r c).haltCause = s.haltCause := rfl
@[simp] theorem State.setResultFlag_ticked (x : Reg) (r : Byte) (c : Bool) : (s.setResultFlag x r c).ticked = s.ticked := rfl
@[simp] theorem State.setResultFlag_launch (x : Reg) (r : Byte) (c : Bool) : (s.setResultFlag x r c).launch = s.launch := rfl
@[simp] theorem State.setResultFlag_runEn (x : Reg) (r : Byte) (c : Bool) : (s.setResultFlag x r c).runEn = s.runEn := rfl
@[simp] theorem State.setResultFlag_tickStrobe (x : Reg) (r : Byte) (c : Bool) : (s.setResultFlag x r c).tickStrobe = s.tickStrobe := rfl
@[simp] theorem State.setResultFlag_tickDraws (x : Reg) (r : Byte) (c : Bool) : (s.setResultFlag x r c).tickDraws = s.tickDraws := rfl
@[simp] theorem State.setResultFlag_rndDraws (x : Reg) (r : Byte) (c : Bool) : (s.setResultFlag x r c).rndDraws = s.rndDraws := rfl

/-! ### setPc -/

@[simp] theorem State.setPc_v (w : Word) : (s.setPc w).v = s.v := rfl
@[simp] theorem State.setPc_pc (w : Word) : (s.setPc w).pc = w := rfl
@[simp] theorem State.setPc_i (w : Word) : (s.setPc w).i = s.i := rfl
@[simp] theorem State.setPc_stk (w : Word) : (s.setPc w).stk = s.stk := rfl
@[simp] theorem State.setPc_sp (w : Word) : (s.setPc w).sp = s.sp := rfl
@[simp] theorem State.setPc_dt (w : Word) : (s.setPc w).dt = s.dt := rfl
@[simp] theorem State.setPc_st (w : Word) : (s.setPc w).st = s.st := rfl
@[simp] theorem State.setPc_fb (w : Word) : (s.setPc w).fb = s.fb := rfl
@[simp] theorem State.setPc_mem (w : Word) : (s.setPc w).mem = s.mem := rfl
@[simp] theorem State.setPc_fsm (w : Word) : (s.setPc w).fsm = s.fsm := rfl
@[simp] theorem State.setPc_ir (w : Word) : (s.setPc w).ir = s.ir := rfl
@[simp] theorem State.setPc_haltCause (w : Word) : (s.setPc w).haltCause = s.haltCause := rfl
@[simp] theorem State.setPc_ticked (w : Word) : (s.setPc w).ticked = s.ticked := rfl
@[simp] theorem State.setPc_launch (w : Word) : (s.setPc w).launch = s.launch := rfl
@[simp] theorem State.setPc_runEn (w : Word) : (s.setPc w).runEn = s.runEn := rfl
@[simp] theorem State.setPc_tickStrobe (w : Word) : (s.setPc w).tickStrobe = s.tickStrobe := rfl
@[simp] theorem State.setPc_tickDraws (w : Word) : (s.setPc w).tickDraws = s.tickDraws := rfl
@[simp] theorem State.setPc_rndDraws (w : Word) : (s.setPc w).rndDraws = s.rndDraws := rfl

/-! ### setI -/

@[simp] theorem State.setI_v (w : Word) : (s.setI w).v = s.v := rfl
@[simp] theorem State.setI_pc (w : Word) : (s.setI w).pc = s.pc := rfl
@[simp] theorem State.setI_i (w : Word) : (s.setI w).i = w := rfl
@[simp] theorem State.setI_stk (w : Word) : (s.setI w).stk = s.stk := rfl
@[simp] theorem State.setI_sp (w : Word) : (s.setI w).sp = s.sp := rfl
@[simp] theorem State.setI_dt (w : Word) : (s.setI w).dt = s.dt := rfl
@[simp] theorem State.setI_st (w : Word) : (s.setI w).st = s.st := rfl
@[simp] theorem State.setI_fb (w : Word) : (s.setI w).fb = s.fb := rfl
@[simp] theorem State.setI_mem (w : Word) : (s.setI w).mem = s.mem := rfl
@[simp] theorem State.setI_fsm (w : Word) : (s.setI w).fsm = s.fsm := rfl
@[simp] theorem State.setI_ir (w : Word) : (s.setI w).ir = s.ir := rfl
@[simp] theorem State.setI_haltCause (w : Word) : (s.setI w).haltCause = s.haltCause := rfl
@[simp] theorem State.setI_ticked (w : Word) : (s.setI w).ticked = s.ticked := rfl
@[simp] theorem State.setI_launch (w : Word) : (s.setI w).launch = s.launch := rfl
@[simp] theorem State.setI_runEn (w : Word) : (s.setI w).runEn = s.runEn := rfl
@[simp] theorem State.setI_tickStrobe (w : Word) : (s.setI w).tickStrobe = s.tickStrobe := rfl
@[simp] theorem State.setI_tickDraws (w : Word) : (s.setI w).tickDraws = s.tickDraws := rfl
@[simp] theorem State.setI_rndDraws (w : Word) : (s.setI w).rndDraws = s.rndDraws := rfl

/-! ### setDt -/

@[simp] theorem State.setDt_v (b : Byte) : (s.setDt b).v = s.v := rfl
@[simp] theorem State.setDt_pc (b : Byte) : (s.setDt b).pc = s.pc := rfl
@[simp] theorem State.setDt_i (b : Byte) : (s.setDt b).i = s.i := rfl
@[simp] theorem State.setDt_stk (b : Byte) : (s.setDt b).stk = s.stk := rfl
@[simp] theorem State.setDt_sp (b : Byte) : (s.setDt b).sp = s.sp := rfl
@[simp] theorem State.setDt_dt (b : Byte) : (s.setDt b).dt = b := rfl
@[simp] theorem State.setDt_st (b : Byte) : (s.setDt b).st = s.st := rfl
@[simp] theorem State.setDt_fb (b : Byte) : (s.setDt b).fb = s.fb := rfl
@[simp] theorem State.setDt_mem (b : Byte) : (s.setDt b).mem = s.mem := rfl
@[simp] theorem State.setDt_fsm (b : Byte) : (s.setDt b).fsm = s.fsm := rfl
@[simp] theorem State.setDt_ir (b : Byte) : (s.setDt b).ir = s.ir := rfl
@[simp] theorem State.setDt_haltCause (b : Byte) : (s.setDt b).haltCause = s.haltCause := rfl
@[simp] theorem State.setDt_ticked (b : Byte) : (s.setDt b).ticked = s.ticked := rfl
@[simp] theorem State.setDt_launch (b : Byte) : (s.setDt b).launch = s.launch := rfl
@[simp] theorem State.setDt_runEn (b : Byte) : (s.setDt b).runEn = s.runEn := rfl
@[simp] theorem State.setDt_tickStrobe (b : Byte) : (s.setDt b).tickStrobe = s.tickStrobe := rfl
@[simp] theorem State.setDt_tickDraws (b : Byte) : (s.setDt b).tickDraws = s.tickDraws := rfl
@[simp] theorem State.setDt_rndDraws (b : Byte) : (s.setDt b).rndDraws = s.rndDraws := rfl

/-! ### setSt -/

@[simp] theorem State.setSt_v (b : Byte) : (s.setSt b).v = s.v := rfl
@[simp] theorem State.setSt_pc (b : Byte) : (s.setSt b).pc = s.pc := rfl
@[simp] theorem State.setSt_i (b : Byte) : (s.setSt b).i = s.i := rfl
@[simp] theorem State.setSt_stk (b : Byte) : (s.setSt b).stk = s.stk := rfl
@[simp] theorem State.setSt_sp (b : Byte) : (s.setSt b).sp = s.sp := rfl
@[simp] theorem State.setSt_dt (b : Byte) : (s.setSt b).dt = s.dt := rfl
@[simp] theorem State.setSt_st (b : Byte) : (s.setSt b).st = b := rfl
@[simp] theorem State.setSt_fb (b : Byte) : (s.setSt b).fb = s.fb := rfl
@[simp] theorem State.setSt_mem (b : Byte) : (s.setSt b).mem = s.mem := rfl
@[simp] theorem State.setSt_fsm (b : Byte) : (s.setSt b).fsm = s.fsm := rfl
@[simp] theorem State.setSt_ir (b : Byte) : (s.setSt b).ir = s.ir := rfl
@[simp] theorem State.setSt_haltCause (b : Byte) : (s.setSt b).haltCause = s.haltCause := rfl
@[simp] theorem State.setSt_ticked (b : Byte) : (s.setSt b).ticked = s.ticked := rfl
@[simp] theorem State.setSt_launch (b : Byte) : (s.setSt b).launch = s.launch := rfl
@[simp] theorem State.setSt_runEn (b : Byte) : (s.setSt b).runEn = s.runEn := rfl
@[simp] theorem State.setSt_tickStrobe (b : Byte) : (s.setSt b).tickStrobe = s.tickStrobe := rfl
@[simp] theorem State.setSt_tickDraws (b : Byte) : (s.setSt b).tickDraws = s.tickDraws := rfl
@[simp] theorem State.setSt_rndDraws (b : Byte) : (s.setSt b).rndDraws = s.rndDraws := rfl

/-! ### setFb -/

@[simp] theorem State.setFb_v (g : Framebuffer) : (s.setFb g).v = s.v := rfl
@[simp] theorem State.setFb_pc (g : Framebuffer) : (s.setFb g).pc = s.pc := rfl
@[simp] theorem State.setFb_i (g : Framebuffer) : (s.setFb g).i = s.i := rfl
@[simp] theorem State.setFb_stk (g : Framebuffer) : (s.setFb g).stk = s.stk := rfl
@[simp] theorem State.setFb_sp (g : Framebuffer) : (s.setFb g).sp = s.sp := rfl
@[simp] theorem State.setFb_dt (g : Framebuffer) : (s.setFb g).dt = s.dt := rfl
@[simp] theorem State.setFb_st (g : Framebuffer) : (s.setFb g).st = s.st := rfl
@[simp] theorem State.setFb_fb (g : Framebuffer) : (s.setFb g).fb = g := rfl
@[simp] theorem State.setFb_mem (g : Framebuffer) : (s.setFb g).mem = s.mem := rfl
@[simp] theorem State.setFb_fsm (g : Framebuffer) : (s.setFb g).fsm = s.fsm := rfl
@[simp] theorem State.setFb_ir (g : Framebuffer) : (s.setFb g).ir = s.ir := rfl
@[simp] theorem State.setFb_haltCause (g : Framebuffer) : (s.setFb g).haltCause = s.haltCause := rfl
@[simp] theorem State.setFb_ticked (g : Framebuffer) : (s.setFb g).ticked = s.ticked := rfl
@[simp] theorem State.setFb_launch (g : Framebuffer) : (s.setFb g).launch = s.launch := rfl
@[simp] theorem State.setFb_runEn (g : Framebuffer) : (s.setFb g).runEn = s.runEn := rfl
@[simp] theorem State.setFb_tickStrobe (g : Framebuffer) : (s.setFb g).tickStrobe = s.tickStrobe := rfl
@[simp] theorem State.setFb_tickDraws (g : Framebuffer) : (s.setFb g).tickDraws = s.tickDraws := rfl
@[simp] theorem State.setFb_rndDraws (g : Framebuffer) : (s.setFb g).rndDraws = s.rndDraws := rfl

/-! ### setMem -/

@[simp] theorem State.setMem_v (m : List Host.Cell) : (s.setMem m).v = s.v := rfl
@[simp] theorem State.setMem_pc (m : List Host.Cell) : (s.setMem m).pc = s.pc := rfl
@[simp] theorem State.setMem_i (m : List Host.Cell) : (s.setMem m).i = s.i := rfl
@[simp] theorem State.setMem_stk (m : List Host.Cell) : (s.setMem m).stk = s.stk := rfl
@[simp] theorem State.setMem_sp (m : List Host.Cell) : (s.setMem m).sp = s.sp := rfl
@[simp] theorem State.setMem_dt (m : List Host.Cell) : (s.setMem m).dt = s.dt := rfl
@[simp] theorem State.setMem_st (m : List Host.Cell) : (s.setMem m).st = s.st := rfl
@[simp] theorem State.setMem_fb (m : List Host.Cell) : (s.setMem m).fb = s.fb := rfl
@[simp] theorem State.setMem_mem (m : List Host.Cell) : (s.setMem m).mem = m := rfl
@[simp] theorem State.setMem_fsm (m : List Host.Cell) : (s.setMem m).fsm = s.fsm := rfl
@[simp] theorem State.setMem_ir (m : List Host.Cell) : (s.setMem m).ir = s.ir := rfl
@[simp] theorem State.setMem_haltCause (m : List Host.Cell) : (s.setMem m).haltCause = s.haltCause := rfl
@[simp] theorem State.setMem_ticked (m : List Host.Cell) : (s.setMem m).ticked = s.ticked := rfl
@[simp] theorem State.setMem_launch (m : List Host.Cell) : (s.setMem m).launch = s.launch := rfl
@[simp] theorem State.setMem_runEn (m : List Host.Cell) : (s.setMem m).runEn = s.runEn := rfl
@[simp] theorem State.setMem_tickStrobe (m : List Host.Cell) : (s.setMem m).tickStrobe = s.tickStrobe := rfl
@[simp] theorem State.setMem_tickDraws (m : List Host.Cell) : (s.setMem m).tickDraws = s.tickDraws := rfl
@[simp] theorem State.setMem_rndDraws (m : List Host.Cell) : (s.setMem m).rndDraws = s.rndDraws := rfl

/-! ### advancePc -/

@[simp] theorem State.advancePc_v : s.advancePc.v = s.v := rfl
@[simp] theorem State.advancePc_pc : s.advancePc.pc = s.pc + 2 := rfl
@[simp] theorem State.advancePc_i : s.advancePc.i = s.i := rfl
@[simp] theorem State.advancePc_stk : s.advancePc.stk = s.stk := rfl
@[simp] theorem State.advancePc_sp : s.advancePc.sp = s.sp := rfl
@[simp] theorem State.advancePc_dt : s.advancePc.dt = s.dt := rfl
@[simp] theorem State.advancePc_st : s.advancePc.st = s.st := rfl
@[simp] theorem State.advancePc_fb : s.advancePc.fb = s.fb := rfl
@[simp] theorem State.advancePc_mem : s.advancePc.mem = s.mem := rfl
@[simp] theorem State.advancePc_fsm : s.advancePc.fsm = s.fsm := rfl
@[simp] theorem State.advancePc_ir : s.advancePc.ir = s.ir := rfl
@[simp] theorem State.advancePc_haltCause : s.advancePc.haltCause = s.haltCause := rfl
@[simp] theorem State.advancePc_ticked : s.advancePc.ticked = s.ticked := rfl
@[simp] theorem State.advancePc_launch : s.advancePc.launch = s.launch := rfl
@[simp] theorem State.advancePc_runEn : s.advancePc.runEn = s.runEn := rfl
@[simp] theorem State.advancePc_tickStrobe : s.advancePc.tickStrobe = s.tickStrobe := rfl
@[simp] theorem State.advancePc_tickDraws : s.advancePc.tickDraws = s.tickDraws := rfl
@[simp] theorem State.advancePc_rndDraws : s.advancePc.rndDraws = s.rndDraws := rfl

/-! ### halt -/

@[simp] theorem State.halt_v (c : HaltCause) : (s.halt c).v = s.v := rfl
@[simp] theorem State.halt_pc (c : HaltCause) : (s.halt c).pc = s.pc := rfl
@[simp] theorem State.halt_i (c : HaltCause) : (s.halt c).i = s.i := rfl
@[simp] theorem State.halt_stk (c : HaltCause) : (s.halt c).stk = s.stk := rfl
@[simp] theorem State.halt_sp (c : HaltCause) : (s.halt c).sp = s.sp := rfl
@[simp] theorem State.halt_dt (c : HaltCause) : (s.halt c).dt = s.dt := rfl
@[simp] theorem State.halt_st (c : HaltCause) : (s.halt c).st = s.st := rfl
@[simp] theorem State.halt_fb (c : HaltCause) : (s.halt c).fb = s.fb := rfl
@[simp] theorem State.halt_mem (c : HaltCause) : (s.halt c).mem = s.mem := rfl
@[simp] theorem State.halt_fsm (c : HaltCause) : (s.halt c).fsm = .halted := rfl
@[simp] theorem State.halt_ir (c : HaltCause) : (s.halt c).ir = s.ir := rfl
@[simp] theorem State.halt_haltCause (c : HaltCause) : (s.halt c).haltCause = c := rfl
@[simp] theorem State.halt_ticked (c : HaltCause) : (s.halt c).ticked = s.ticked := rfl
@[simp] theorem State.halt_launch (c : HaltCause) : (s.halt c).launch = s.launch := rfl
@[simp] theorem State.halt_runEn (c : HaltCause) : (s.halt c).runEn = s.runEn := rfl
@[simp] theorem State.halt_tickStrobe (c : HaltCause) : (s.halt c).tickStrobe = s.tickStrobe := rfl
@[simp] theorem State.halt_tickDraws (c : HaltCause) : (s.halt c).tickDraws = s.tickDraws := rfl
@[simp] theorem State.halt_rndDraws (c : HaltCause) : (s.halt c).rndDraws = s.rndDraws := rfl

/-! ### tick -/

@[simp] theorem State.tick_v : s.tick.v = s.v := rfl
@[simp] theorem State.tick_pc : s.tick.pc = s.pc := rfl
@[simp] theorem State.tick_i : s.tick.i = s.i := rfl
@[simp] theorem State.tick_stk : s.tick.stk = s.stk := rfl
@[simp] theorem State.tick_sp : s.tick.sp = s.sp := rfl
@[simp] theorem State.tick_dt : s.tick.dt = countDown s.dt := rfl
@[simp] theorem State.tick_st : s.tick.st = countDown s.st := rfl
@[simp] theorem State.tick_fb : s.tick.fb = s.fb := rfl
@[simp] theorem State.tick_mem : s.tick.mem = s.mem := rfl
@[simp] theorem State.tick_fsm : s.tick.fsm = s.fsm := rfl
@[simp] theorem State.tick_ir : s.tick.ir = s.ir := rfl
@[simp] theorem State.tick_haltCause : s.tick.haltCause = s.haltCause := rfl
@[simp] theorem State.tick_ticked : s.tick.ticked = true := rfl
@[simp] theorem State.tick_launch : s.tick.launch = s.launch := rfl
@[simp] theorem State.tick_runEn : s.tick.runEn = s.runEn := rfl
@[simp] theorem State.tick_tickStrobe : s.tick.tickStrobe = s.tickStrobe := rfl
@[simp] theorem State.tick_tickDraws : s.tick.tickDraws = s.tickDraws := rfl
@[simp] theorem State.tick_rndDraws : s.tick.rndDraws = s.rndDraws := rfl

/-! ### sampleTick -/

@[simp] theorem State.sampleTick_v : s.sampleTick.v = s.v := rfl
@[simp] theorem State.sampleTick_pc : s.sampleTick.pc = s.pc := rfl
@[simp] theorem State.sampleTick_i : s.sampleTick.i = s.i := rfl
@[simp] theorem State.sampleTick_stk : s.sampleTick.stk = s.stk := rfl
@[simp] theorem State.sampleTick_sp : s.sampleTick.sp = s.sp := rfl
@[simp] theorem State.sampleTick_dt : s.sampleTick.dt = s.dt := rfl
@[simp] theorem State.sampleTick_st : s.sampleTick.st = s.st := rfl
@[simp] theorem State.sampleTick_fb : s.sampleTick.fb = s.fb := rfl
@[simp] theorem State.sampleTick_mem : s.sampleTick.mem = s.mem := rfl
@[simp] theorem State.sampleTick_fsm : s.sampleTick.fsm = s.fsm := rfl
@[simp] theorem State.sampleTick_ir : s.sampleTick.ir = s.ir := rfl
@[simp] theorem State.sampleTick_haltCause : s.sampleTick.haltCause = s.haltCause := rfl
@[simp] theorem State.sampleTick_ticked : s.sampleTick.ticked = s.ticked := rfl
@[simp] theorem State.sampleTick_launch : s.sampleTick.launch = s.launch := rfl
@[simp] theorem State.sampleTick_runEn : s.sampleTick.runEn = s.runEn := rfl
@[simp] theorem State.sampleTick_tickStrobe : s.sampleTick.tickStrobe = Config.tick s.tickDraws := rfl
@[simp] theorem State.sampleTick_tickDraws : s.sampleTick.tickDraws = s.tickDraws + 1 := rfl
@[simp] theorem State.sampleTick_rndDraws : s.sampleTick.rndDraws = s.rndDraws := rfl

/-! ### drawRnd -/

@[simp] theorem State.drawRnd_fst : s.drawRnd.1 = Config.rnd s.rndDraws := rfl
@[simp] theorem State.drawRnd_v : s.drawRnd.2.v = s.v := rfl
@[simp] theorem State.drawRnd_pc : s.drawRnd.2.pc = s.pc := rfl
@[simp] theorem State.drawRnd_i : s.drawRnd.2.i = s.i := rfl
@[simp] theorem State.drawRnd_stk : s.drawRnd.2.stk = s.stk := rfl
@[simp] theorem State.drawRnd_sp : s.drawRnd.2.sp = s.sp := rfl
@[simp] theorem State.drawRnd_dt : s.drawRnd.2.dt = s.dt := rfl
@[simp] theorem State.drawRnd_st : s.drawRnd.2.st = s.st := rfl
@[simp] theorem State.drawRnd_fb : s.drawRnd.2.fb = s.fb := rfl
@[simp] theorem State.drawRnd_mem : s.drawRnd.2.mem = s.mem := rfl
@[simp] theorem State.drawRnd_fsm : s.drawRnd.2.fsm = s.fsm := rfl
@[simp] theorem State.drawRnd_ir : s.drawRnd.2.ir = s.ir := rfl
@[simp] theorem State.drawRnd_haltCause : s.drawRnd.2.haltCause = s.haltCause := rfl
@[simp] theorem State.drawRnd_ticked : s.drawRnd.2.ticked = s.ticked := rfl
@[simp] theorem State.drawRnd_launch : s.drawRnd.2.launch = s.launch := rfl
@[simp] theorem State.drawRnd_runEn : s.drawRnd.2.runEn = s.runEn := rfl
@[simp] theorem State.drawRnd_tickStrobe : s.drawRnd.2.tickStrobe = s.tickStrobe := rfl
@[simp] theorem State.drawRnd_tickDraws : s.drawRnd.2.tickDraws = s.tickDraws := rfl
@[simp] theorem State.drawRnd_rndDraws : s.drawRnd.2.rndDraws = s.rndDraws + 1 := rfl

/-! ### resetTo -/

@[simp] theorem State.resetTo_v (l : Launch) : (s.resetTo l).v = (State.afterReset l).v := rfl
@[simp] theorem State.resetTo_pc (l : Launch) : (s.resetTo l).pc = (State.afterReset l).pc := rfl
@[simp] theorem State.resetTo_i (l : Launch) : (s.resetTo l).i = (State.afterReset l).i := rfl
@[simp] theorem State.resetTo_stk (l : Launch) : (s.resetTo l).stk = (State.afterReset l).stk := rfl
@[simp] theorem State.resetTo_sp (l : Launch) : (s.resetTo l).sp = (State.afterReset l).sp := rfl
@[simp] theorem State.resetTo_dt (l : Launch) : (s.resetTo l).dt = (State.afterReset l).dt := rfl
@[simp] theorem State.resetTo_st (l : Launch) : (s.resetTo l).st = (State.afterReset l).st := rfl
@[simp] theorem State.resetTo_fb (l : Launch) : (s.resetTo l).fb = (State.afterReset l).fb := rfl
@[simp] theorem State.resetTo_mem (l : Launch) : (s.resetTo l).mem = (State.afterReset l).mem := rfl
@[simp] theorem State.resetTo_fsm (l : Launch) : (s.resetTo l).fsm = (State.afterReset l).fsm := rfl
@[simp] theorem State.resetTo_ir (l : Launch) : (s.resetTo l).ir = (State.afterReset l).ir := rfl
@[simp] theorem State.resetTo_haltCause (l : Launch) : (s.resetTo l).haltCause = (State.afterReset l).haltCause := rfl
@[simp] theorem State.resetTo_ticked (l : Launch) : (s.resetTo l).ticked = (State.afterReset l).ticked := rfl
@[simp] theorem State.resetTo_launch (l : Launch) : (s.resetTo l).launch = (State.afterReset l).launch := rfl
@[simp] theorem State.resetTo_runEn (l : Launch) : (s.resetTo l).runEn = (State.afterReset l).runEn := rfl
@[simp] theorem State.resetTo_tickStrobe (l : Launch) : (s.resetTo l).tickStrobe = Config.tick s.tickDraws := rfl
@[simp] theorem State.resetTo_tickDraws (l : Launch) : (s.resetTo l).tickDraws = s.tickDraws + 1 := rfl
@[simp] theorem State.resetTo_rndDraws (l : Launch) : (s.resetTo l).rndDraws = s.rndDraws := rfl

end Sys2Proof.Machine
end

