-- ==== Sys2Proof/Laws/Ops.lean ====
section
/-! SUPPORT. What each shared operation can do, said once: registers, the stack, memory through `ea`, the register
block, FETCH and the end of a cycle. Proofs cite these instead of unfolding the operations. -/

namespace Sys2Proof.Machine

/-! ### Registers -/

theorem State.getV_setV (s : State) (x r : Reg) (b : Byte) :
    (s.setV x b).getV r = if r = x then b else s.getV r := by
  simp only [State.getV, State.setV, Vector.getElem_set]
  by_cases h : r = x
  · simp [h]
  · rw [if_neg (fun e => h (BitVec.eq_of_toNat_eq e.symm)), if_neg h]

@[simp] theorem State.getV_setV_self (s : State) (x : Reg) (b : Byte) : (s.setV x b).getV x = b := by
  simp [State.getV_setV]

theorem State.getV_setV_of_ne (s : State) (x r : Reg) (b : Byte) (h : r ≠ x) :
    (s.setV x b).getV r = s.getV r := by
  simp [State.getV_setV, h]

theorem State.getV_setFlag (s : State) (r : Reg) (c : Bool) :
    (s.setFlag c).getV r = if r = regVF then boolByte c else s.getV r := s.getV_setV _ _ _

/-- Result first, flag second: VF holds the flag whatever x is (R143). -/
theorem State.getV_setResultFlag (s : State) (x r : Reg) (b : Byte) (c : Bool) :
    (s.setResultFlag x b c).getV r =
      if r = regVF then boolByte c else if r = x then b else s.getV r := by
  rw [State.setResultFlag, State.getV_setFlag, State.getV_setV]

@[simp] theorem State.getV_setPc (s : State) (w : Word) (r : Reg) : (s.setPc w).getV r = s.getV r := rfl
@[simp] theorem State.getV_setI (s : State) (w : Word) (r : Reg) : (s.setI w).getV r = s.getV r := rfl
@[simp] theorem State.getV_setDt (s : State) (b : Byte) (r : Reg) : (s.setDt b).getV r = s.getV r := rfl
@[simp] theorem State.getV_setSt (s : State) (b : Byte) (r : Reg) : (s.setSt b).getV r = s.getV r := rfl
@[simp] theorem State.getV_setFb (s : State) (g : Framebuffer) (r : Reg) :
    (s.setFb g).getV r = s.getV r := rfl
@[simp] theorem State.getV_setMem (s : State) (m : List Host.Cell) (r : Reg) :
    (s.setMem m).getV r = s.getV r := rfl
@[simp] theorem State.getV_halt (s : State) (c : HaltCause) (r : Reg) : (s.halt c).getV r = s.getV r := rfl
@[simp] theorem State.getV_tick (s : State) (r : Reg) : s.tick.getV r = s.getV r := rfl
@[simp] theorem State.getV_sampleTick (s : State) (r : Reg) : s.sampleTick.getV r = s.getV r := rfl
@[simp] theorem State.getV_drawRnd (s : State) (r : Reg) : s.drawRnd.2.getV r = s.getV r := rfl

/-! ### Bytes of memory under the updates that leave memory alone -/

@[simp] theorem State.byteAt_setV (s : State) (x : Reg) (b : Byte) (a : Nat) :
    (s.setV x b).byteAt a = s.byteAt a := rfl
@[simp] theorem State.byteAt_setFlag (s : State) (c : Bool) (a : Nat) :
    (s.setFlag c).byteAt a = s.byteAt a := rfl
@[simp] theorem State.byteAt_setResultFlag (s : State) (x : Reg) (b : Byte) (c : Bool) (a : Nat) :
    (s.setResultFlag x b c).byteAt a = s.byteAt a := rfl
@[simp] theorem State.byteAt_setPc (s : State) (w : Word) (a : Nat) :
    (s.setPc w).byteAt a = s.byteAt a := rfl
@[simp] theorem State.byteAt_setI (s : State) (w : Word) (a : Nat) :
    (s.setI w).byteAt a = s.byteAt a := rfl
@[simp] theorem State.byteAt_setDt (s : State) (b : Byte) (a : Nat) :
    (s.setDt b).byteAt a = s.byteAt a := rfl
@[simp] theorem State.byteAt_setSt (s : State) (b : Byte) (a : Nat) :
    (s.setSt b).byteAt a = s.byteAt a := rfl
@[simp] theorem State.byteAt_setFb (s : State) (g : Framebuffer) (a : Nat) :
    (s.setFb g).byteAt a = s.byteAt a := rfl
@[simp] theorem State.byteAt_halt (s : State) (c : HaltCause) (a : Nat) :
    (s.halt c).byteAt a = s.byteAt a := rfl
@[simp] theorem State.byteAt_tick (s : State) (a : Nat) : s.tick.byteAt a = s.byteAt a := rfl
@[simp] theorem State.byteAt_sampleTick (s : State) (a : Nat) : s.sampleTick.byteAt a = s.byteAt a := rfl
@[simp] theorem State.byteAt_drawRnd (s : State) (a : Nat) : s.drawRnd.2.byteAt a = s.byteAt a := rfl

/-! ### Halting -/

@[simp] theorem State.orHalt_some (s t : State) (c : HaltCause) : s.orHalt c (some t) = t := rfl
@[simp] theorem State.orHalt_none (s : State) (c : HaltCause) : s.orHalt c none = s.halt c := rfl

/-! ### The stack -/

/-- Push writes STK[SP] and counts, or raises with 16 entries (R26). -/
theorem State.push_eq (s : State) (w : Word) :
    s.push w =
      if h : s.sp.val < Config.stackDepth then
        some { s with stk := s.stk.set s.sp.val w h, sp := ⟨s.sp.val + 1, by omega⟩ }
      else none := rfl

/-- Pop reads STK[SP - 1] and counts down, or raises on an empty stack (R26). -/
theorem State.pop_eq (s : State) :
    s.pop =
      if h : 0 < s.sp.val then
        some (s.stk[s.sp.val - 1]'(by omega), { s with sp := ⟨s.sp.val - 1, by omega⟩ })
      else none := rfl

/-! ### Effective addresses -/

theorem State.ea_wrap (s : State) (a : Nat) (h : s.launch.addrPolicy = .wrap) :
    s.ea a = some (a % Config.memSize) := by simp [State.ea, h]

theorem State.ea_fault (s : State) (a : Nat) (h : s.launch.addrPolicy = .fault) :
    s.ea a = if a < Config.memSize then some a else none := by simp [State.ea, h]

/-- Where `ea` answers, it answers the address modulo 4096. -/
theorem State.ea_eq_some (s : State) (a p : Nat) (h : s.ea a = some p) : p = a % Config.memSize := by
  unfold State.ea at h
  split at h
  · exact (Option.some.inj h).symm
  · split at h
    · rw [← Option.some.inj h, Nat.mod_eq_of_lt ‹_›]
    · cases h

/-- `ea` answers exactly the addresses that one byte can be reached at. -/
theorem State.ea_isSome (s : State) (a : Nat) : (s.ea a).isSome = true ↔ s.reaches a 1 := by
  cases h : s.launch.addrPolicy with
  | wrap => simp [State.ea, State.reaches, h]
  | fault => by_cases ha : a < 4096 <;> simp [State.ea, State.reaches, h, ha]

theorem State.ea_of_reaches (s : State) (a : Nat) (h : s.reaches a 1) :
    s.ea a = some (a % Config.memSize) := by
  obtain ⟨p, hp⟩ := Option.isSome_iff_exists.1 ((s.ea_isSome a).2 h)
  rw [hp, s.ea_eq_some a p hp]

theorem State.ea_of_not_reaches (s : State) (a : Nat) (h : ¬ s.reaches a 1) : s.ea a = none := by
  rw [← s.ea_isSome a] at h
  simpa using h

theorem State.memRead_of_reaches (s : State) (a : Nat) (h : s.reaches a 1) :
    s.memRead a = some (s.byteAt (a % Config.memSize)) := by
  simp [State.memRead, s.ea_of_reaches a h]

theorem State.memRead_of_not_reaches (s : State) (a : Nat) (h : ¬ s.reaches a 1) :
    s.memRead a = none := by
  simp [State.memRead, s.ea_of_not_reaches a h]

theorem State.reaches_zero (s : State) (a : Nat) : s.reaches a 0 := .inr (.inl rfl)

theorem State.reaches_succ (s : State) (a n : Nat) :
    s.reaches a (n + 1) ↔ s.reaches a 1 ∧ s.reaches (a + 1) n := by
  simp only [State.reaches, Config.memSize]
  constructor
  · rintro (h | h | h)
    · exact ⟨.inl h, .inl h⟩
    · omega
    · exact ⟨.inr (.inr (by omega)), .inr (.inr (by omega))⟩
  · rintro ⟨h | h | h, h' | h' | h'⟩ <;> first | exact .inl ‹_› | exact .inr (.inr (by omega))

/-! ### Several bytes -/

/-- All the bytes read, or none if one address faults (R55, R56). -/
theorem State.readBytes_of_reaches (s : State) (n a : Nat) (h : s.reaches a n) :
    s.readBytes a n = some ((List.range n).map fun k => s.byteAt ((a + k) % Config.memSize)) := by
  induction n generalizing a with
  | zero => rfl
  | succ n ih =>
    obtain ⟨h1, h2⟩ := (s.reaches_succ a n).1 h
    simp only [State.readBytes, s.memRead_of_reaches a h1, ih (a + 1) h2, List.range_succ_eq_map]
    simp [Function.comp_def, Nat.add_assoc, Nat.add_comm 1]

theorem State.readBytes_of_not_reaches (s : State) (n a : Nat) (h : ¬ s.reaches a n) :
    s.readBytes a n = none := by
  induction n generalizing a with
  | zero => exact absurd (s.reaches_zero a) h
  | succ n ih =>
    rw [s.reaches_succ a n, not_and_or] at h
    simp only [State.readBytes]
    by_cases h1 : s.reaches a 1
    · rw [s.memRead_of_reaches a h1, ih (a + 1) (h.resolve_left (not_not.2 h1))]; rfl
    · rw [s.memRead_of_not_reaches a h1]

/-- The memory after the bytes are written at a, a + 1, ..., each modulo 4096. -/
def memoryAfter (font : Vector Byte Config.fontSize) (m : List Host.Cell) (a : Nat) :
    List Byte → List Host.Cell
  | [] => m
  | b :: bs => memoryAfter font (Memory.write font m (a % Config.memSize) b) (a + 1) bs

/-- All the bytes written, or none if one address faults (R55, R56). -/
theorem State.writeBytes_of_reaches (s : State) (bs : List Byte) (a : Nat)
    (h : s.reaches a bs.length) :
    s.writeBytes a bs = some (s.setMem (memoryAfter s.launch.fontTable s.mem a bs)) := by
  induction bs generalizing s a with
  | nil => rfl
  | cons b bs ih =>
    obtain ⟨h1, h2⟩ := (s.reaches_succ a bs.length).1 h
    simp only [State.writeBytes, State.memWrite, s.ea_of_reaches a h1, Option.map_some]
    rw [ih _ _ (by simpa [State.reaches] using h2)]
    rfl

theorem State.writeBytes_of_not_reaches (s : State) (bs : List Byte) (a : Nat)
    (h : ¬ s.reaches a bs.length) : s.writeBytes a bs = none := by
  induction bs generalizing s a with
  | nil => exact absurd (s.reaches_zero a) h
  | cons b bs ih =>
    rw [List.length_cons, s.reaches_succ a bs.length, not_and_or] at h
    simp only [State.writeBytes, State.memWrite]
    by_cases h1 : s.reaches a 1
    · rw [s.ea_of_reaches a h1]
      exact ih _ _ (by simpa [State.reaches] using h.resolve_left (not_not.2 h1))
    · rw [s.ea_of_not_reaches a h1]; rfl

theorem wf_memoryAfter (font) (bs : List Byte) (m : List Host.Cell) (a : Nat)
    (h : Memory.wf font m = true) : Memory.wf font (memoryAfter font m a bs) = true := by
  induction bs generalizing m a with
  | nil => exact h
  | cons b bs ih => exact ih _ _ (Memory.wf_write font m _ b h (Nat.mod_lt _ (by decide)))

/-- What memory reads as after at most 4096 bytes are written from a on: the k-th byte at (a + k) mod 4096,
the older byte everywhere else. -/
theorem read_memoryAfter (font) (bs : List Byte) (m : List Host.Cell) (a p : Nat)
    (h : Memory.wf font m = true) (hl : bs.length ≤ Config.memSize) :
    (∀ k, (hk : k < bs.length) → p = (a + k) % Config.memSize →
        Memory.read font (memoryAfter font m a bs) p = bs[k]) ∧
      ((∀ k < bs.length, p ≠ (a + k) % Config.memSize) →
        Memory.read font (memoryAfter font m a bs) p = Memory.read font m p) := by
  induction bs generalizing m a with
  | nil => exact ⟨fun k hk => absurd hk (by simp), fun _ => rfl⟩
  | cons b bs ih =>
    simp only [List.length_cons] at hl
    have hw := Memory.wf_write font m (a % Config.memSize) b h (Nat.mod_lt _ (by decide))
    obtain ⟨ih1, ih2⟩ := ih _ (a + 1) hw (by omega)
    have hr := Memory.read_write font m (a % Config.memSize) b p ((Memory.wf_iff font m).1 h).1
    refine ⟨fun k hk hp => ?_, fun hp => ?_⟩
    · cases k with
      | zero =>
        have hp' : p = a % Config.memSize := by simpa using hp
        rw [memoryAfter, ih2 (fun j hj => by simp only [Config.memSize] at *; omega), hr, if_pos hp']
        rfl
      | succ k =>
        have hk' : k < bs.length := by simpa using hk
        rw [memoryAfter, ih1 k hk' (by rw [hp]; congr 1; omega)]
        rfl
    · rw [memoryAfter, ih2 (fun k hk => ?_), hr, if_neg ?_]
      · simpa using hp 0 (by simp)
      · have := hp (k + 1) (by simpa using hk)
        rwa [show a + (k + 1) = a + 1 + k by omega] at this

/-! ### The register block -/

theorem getV_loadBlock (bs : List Byte) (s : State) (k : Nat) (r : Reg) (h : k + bs.length ≤ 16) :
    (s.loadBlock k bs).getV r =
      if hr : k ≤ r.toNat ∧ r.toNat < k + bs.length then bs[r.toNat - k]'(by omega) else s.getV r := by
  induction bs generalizing s k with
  | nil => rw [dif_neg (by simp)]; rfl
  | cons b bs ih =>
    simp only [List.length_cons] at h
    rw [State.loadBlock, ih _ (k + 1) (by omega), State.getV_setV]
    have hx : (BitVec.ofNat 4 k).toNat = k := by simp; omega
    by_cases h1 : r.toNat = k
    · have hr : r = BitVec.ofNat 4 k := BitVec.eq_of_toNat_eq (by omega)
      rw [dif_neg (by omega), if_pos hr, dif_pos (by simp; omega)]
      simp [h1]
    · have hr : r ≠ BitVec.ofNat 4 k := fun e => h1 (by rw [e, hx])
      by_cases h2 : k + 1 ≤ r.toNat ∧ r.toNat < k + 1 + bs.length
      · rw [dif_pos h2, dif_pos (by simp; omega)]
        obtain ⟨j, hj⟩ : ∃ j, r.toNat - k = j + 1 := ⟨r.toNat - k - 1, by omega⟩
        simp only [hj, List.getElem_cons_succ]
        congr 1; omega
      · rw [dif_neg h2, if_neg hr, dif_neg (by simp; omega)]

/-- Loading a block of registers writes V alone. -/
theorem loadBlock_eq (bs : List Byte) (s : State) (k : Nat) :
    s.loadBlock k bs = { s with v := (s.loadBlock k bs).v } := by
  induction bs generalizing s k with
  | nil => rfl
  | cons b bs ih => rw [State.loadBlock, ih]; rfl

@[simp] theorem length_block (s : State) (n : Nat) : (s.block n).length = n := by simp [State.block]

theorem getElem_block (s : State) (n k : Nat) (h : k < (s.block n).length) :
    (s.block n)[k] = s.getV (BitVec.ofNat 4 k) := by simp [State.block]

/-- I after a register block (R187, R188), and nothing else. -/
theorem bumpI_eq (s : State) (x : Reg) :
    s.bumpI x = { s with i := if s.launch.legacyMode then s.i + BitVec.ofNat 16 (blockSize x) else s.i } := by
  unfold State.bumpI
  split <;> rfl

/-! ### Reset and the tick schedule -/

@[simp] theorem State.getV_resetTo (s : State) (l : Launch) (r : Reg) :
    (s.resetTo l).getV r = (State.afterReset l).getV r := rfl
@[simp] theorem State.byteAt_resetTo (s : State) (l : Launch) (a : Nat) :
    (s.resetTo l).byteAt a = (State.afterReset l).byteAt a := rfl

/-- Fairness (R213): after every sample of the strobe comes one at which it is up. -/
theorem tick_fair (n : Nat) : ∃ m, n ≤ m ∧ Config.tick m = true := Config.tickSchedule.fair n

/-! ### FETCH and the end of a cycle -/

/-- FETCH either has both bytes and moves on, or halts from the state it started in (R92). -/
theorem fetch_cases (s : State) :
    (∃ hi lo, s.memRead s.pc.toNat = some hi ∧ s.memRead (s.pc.toNat + 1) = some lo ∧
        s.fetch = { s with ir := wordOfBytes hi lo, pc := s.pc + 2, ticked := false, fsm := .execute }) ∨
      ((s.memRead s.pc.toNat = none ∨ s.memRead (s.pc.toNat + 1) = none) ∧
        s.fetch = s.halt .addressFault) := by
  unfold State.fetch
  cases h1 : s.memRead s.pc.toNat with
  | none => exact .inr ⟨.inl rfl, rfl⟩
  | some hi =>
    cases h2 : s.memRead (s.pc.toNat + 1) with
    | none => exact .inr ⟨.inr rfl, rfl⟩
    | some lo => exact .inl ⟨hi, lo, rfl, rfl, rfl⟩

theorem endCycle_of_halted (s : State) (h : s.fsm = .halted) : s.endCycle = s := by
  simp [State.endCycle, h]

theorem endCycle_of_ne (s : State) (h : s.fsm ≠ .halted) :
    s.endCycle = { s with fsm := .fetch }.sampleTick := by
  unfold State.endCycle
  split
  · exact absurd ‹_› h
  · rfl
  · rfl

/-- What one step can be (R90 to R95, R212). -/
theorem step_cases (s : State) :
    (s.runEn = false ∧ step s = .next s) ∨
    (s.runEn = true ∧ s.fsm = .halted ∧ step s = .next s) ∨
    (s.runEn = true ∧ s.fsm = .execute ∧ step s = s.execute) ∨
    (s.tickDue = true ∧ step s = .next s.tick) ∨
    (s.runEn = true ∧ s.fsm = .fetch ∧ s.tickDue = false ∧ step s = s.cycle) := by
  unfold step State.advance
  cases hr : s.runEn with
  | false => exact .inl ⟨rfl, rfl⟩
  | true =>
    cases hf : s.fsm with
    | halted => exact .inr (.inl ⟨rfl, rfl, rfl⟩)
    | execute => exact .inr (.inr (.inl ⟨rfl, rfl, rfl⟩))
    | fetch =>
      cases ht : s.tickDue with
      | true => exact .inr (.inr (.inr (.inl ⟨rfl, by simp⟩)))
      | false => exact .inr (.inr (.inr (.inr ⟨rfl, rfl, rfl, by simp⟩)))

/-- A cycle is a faulted fetch, or the EXECUTE step of the fetched state (R92, R93). -/
theorem cycle_cases (s : State) :
    (s.fetch = s.halt .addressFault ∧ s.cycle = .next (s.halt .addressFault)) ∨
      (s.fetch.fsm = .execute ∧ s.cycle = s.fetch.execute) := by
  rcases fetch_cases s with ⟨hi, lo, _, _, h⟩ | ⟨_, h⟩
  · exact .inr ⟨by rw [h], by simp [State.cycle, h]⟩
  · exact .inl ⟨h, by simp [State.cycle, h]⟩

end Sys2Proof.Machine
end

