-- ==== Sys2Proof/Laws/PerInstr.lean ====
section
/-! SUPPORT. Statements per instruction. `FamilyField`: the first nibble of an instruction's word is its family
(spec/30_encoding.md R73), which is what the first level of decoding goes by. -/

namespace Sys2Proof.Laws.FamilyField

/-- The family an instruction belongs to (R73, R75). -/
def family : Instr → Nibble
  | .cls | .ret | .sysHalt _ => 0x0
  | .jp _ => 0x1
  | .call _ => 0x2
  | .seByte _ _ => 0x3
  | .sneByte _ _ => 0x4
  | .seReg _ _ | .malformedSe _ _ _ => 0x5
  | .ldByte _ _ => 0x6
  | .addByte _ _ => 0x7
  | .ldReg _ _ | .orReg _ _ | .andReg _ _ | .xorReg _ _ | .addReg _ _ | .subReg _ _ | .shr _ _
  | .subnReg _ _ | .shl _ _ | .unmatched8 _ _ | .unmatched9 _ _ | .unmatchedA _ _ | .unmatchedB _ _
  | .unmatchedC _ _ | .unmatchedD _ _ | .unmatchedF _ _ => 0x8
  | .sneReg _ _ | .malformedSne _ _ _ => 0x9
  | .ldI _ => 0xA
  | .jpOffset _ => 0xB
  | .rnd _ _ => 0xC
  | .drw _ _ _ => 0xD
  | .familyE _ _ => 0xE
  | .ldVxDt _ | .ldDtVx _ | .ldStVx _ | .addI _ | .ldF _ | .ldB _
  | .storeRegs _ | .loadRegs _ | .familyF _ _ => 0xF

/-- The first nibble of the instruction's word is its family. -/
def Statement (i : Instr) : Prop := fieldF (encode i) = family i

theorem cls : Statement .cls := rfl
theorem ret : Statement .ret := rfl
theorem jp (nnn : Addr12) : Statement (.jp nnn) := fieldF_wordNNN _ _
theorem call (nnn : Addr12) : Statement (.call nnn) := fieldF_wordNNN _ _
theorem seByte (x : Reg) (kk : Byte) : Statement (.seByte x kk) := fieldF_wordXKK _ _ _
theorem sneByte (x : Reg) (kk : Byte) : Statement (.sneByte x kk) := fieldF_wordXKK _ _ _
theorem seReg (x y : Reg) : Statement (.seReg x y) := fieldF_wordXYN _ _ _ _
theorem ldByte (x : Reg) (kk : Byte) : Statement (.ldByte x kk) := fieldF_wordXKK _ _ _
theorem addByte (x : Reg) (kk : Byte) : Statement (.addByte x kk) := fieldF_wordXKK _ _ _
theorem ldReg (x y : Reg) : Statement (.ldReg x y) := fieldF_wordXYN _ _ _ _
theorem orReg (x y : Reg) : Statement (.orReg x y) := fieldF_wordXYN _ _ _ _
theorem andReg (x y : Reg) : Statement (.andReg x y) := fieldF_wordXYN _ _ _ _
theorem xorReg (x y : Reg) : Statement (.xorReg x y) := fieldF_wordXYN _ _ _ _
theorem addReg (x y : Reg) : Statement (.addReg x y) := fieldF_wordXYN _ _ _ _
theorem subReg (x y : Reg) : Statement (.subReg x y) := fieldF_wordXYN _ _ _ _
theorem shr (x y : Reg) : Statement (.shr x y) := fieldF_wordXYN _ _ _ _
theorem subnReg (x y : Reg) : Statement (.subnReg x y) := fieldF_wordXYN _ _ _ _
theorem shl (x y : Reg) : Statement (.shl x y) := fieldF_wordXYN _ _ _ _
theorem sneReg (x y : Reg) : Statement (.sneReg x y) := fieldF_wordXYN _ _ _ _
theorem ldI (nnn : Addr12) : Statement (.ldI nnn) := fieldF_wordNNN _ _
theorem jpOffset (nnn : Addr12) : Statement (.jpOffset nnn) := fieldF_wordNNN _ _
theorem rnd (x : Reg) (kk : Byte) : Statement (.rnd x kk) := fieldF_wordXKK _ _ _
theorem drw (x y : Reg) (n : Nibble) : Statement (.drw x y n) := fieldF_wordXYN _ _ _ _
theorem ldVxDt (x : Reg) : Statement (.ldVxDt x) := fieldF_wordXKK _ _ _
theorem ldDtVx (x : Reg) : Statement (.ldDtVx x) := fieldF_wordXKK _ _ _
theorem ldStVx (x : Reg) : Statement (.ldStVx x) := fieldF_wordXKK _ _ _
theorem addI (x : Reg) : Statement (.addI x) := fieldF_wordXKK _ _ _
theorem ldF (x : Reg) : Statement (.ldF x) := fieldF_wordXKK _ _ _
theorem ldB (x : Reg) : Statement (.ldB x) := fieldF_wordXKK _ _ _
theorem storeRegs (x : Reg) : Statement (.storeRegs x) := fieldF_wordXKK _ _ _
theorem loadRegs (x : Reg) : Statement (.loadRegs x) := fieldF_wordXKK _ _ _
theorem sysHalt (nnn : Addr12) : Statement (.sysHalt nnn) := fieldF_wordNNN _ _
theorem malformedSe (x y : Reg) (n : Nibble) : Statement (.malformedSe x y n) := fieldF_wordXYN _ _ _ _
theorem unmatched8 (x y : Reg) : Statement (.unmatched8 x y) := fieldF_wordXYN _ _ _ _
theorem unmatched9 (x y : Reg) : Statement (.unmatched9 x y) := fieldF_wordXYN _ _ _ _
theorem unmatchedA (x y : Reg) : Statement (.unmatchedA x y) := fieldF_wordXYN _ _ _ _
theorem unmatchedB (x y : Reg) : Statement (.unmatchedB x y) := fieldF_wordXYN _ _ _ _
theorem unmatchedC (x y : Reg) : Statement (.unmatchedC x y) := fieldF_wordXYN _ _ _ _
theorem unmatchedD (x y : Reg) : Statement (.unmatchedD x y) := fieldF_wordXYN _ _ _ _
theorem unmatchedF (x y : Reg) : Statement (.unmatchedF x y) := fieldF_wordXYN _ _ _ _
theorem malformedSne (x y : Reg) (n : Nibble) : Statement (.malformedSne x y n) := fieldF_wordXYN _ _ _ _
theorem familyE (x : Reg) (kk : Byte) : Statement (.familyE x kk) := fieldF_wordXKK _ _ _
theorem familyF (x : Reg) (kk : Byte) : Statement (.familyF x kk) := fieldF_wordXKK _ _ _

end Sys2Proof.Laws.FamilyField
end

