-- ==== Sys2Proof/Tests/Slice0.lean ====
section
/-! SUPPORT. The model's own tests: ill-formed terms that WellFormed refuses, a word of each row written out from
spec/30_encoding.md R73 and R75, one step or one handler on a small state with the expected result from
the examples and vectors of spec/ (the vector's name stands in the comment), and a witness for the
hypotheses of each statement that has some. -/

namespace Sys2Proof.Tests

open Sys2Proof Sys2Proof.Machine

/-! ### WellFormed refuses what no word decodes to -/

theorem test_ill_sysHalt_cls : (Instr.sysHalt 0x0E0).wellFormed = false := by decide
theorem test_ill_sysHalt_ret : (Instr.sysHalt 0x0EE).wellFormed = false := by decide
theorem test_ill_malformedSe : (Instr.malformedSe 1 2 0).wellFormed = false := by decide
theorem test_ill_malformedSne : (Instr.malformedSne 1 2 0).wellFormed = false := by decide
theorem test_ill_familyF : (Instr.familyF 1 0x33).wellFormed = false := by decide
theorem test_well_sysHalt : (Instr.sysHalt 0x1E0).wellFormed = true := by decide

/-! ### Decoding: one word of each row, its bits written out from R73 and R75 -/

theorem test_decode_cls : decode 0b0000000011100000 = .cls := by decide
theorem test_decode_ret : decode 0b0000000011101110 = .ret := by decide
theorem test_decode_jp : decode 0b0001101010111100 = .jp 0xABC := by decide
theorem test_decode_call : decode 0b0010001100000000 = .call 0x300 := by decide
theorem test_decode_seByte : decode 0b0011001100010000 = .seByte 3 0x10 := by decide
theorem test_decode_sneByte : decode 0b0100001100010001 = .sneByte 3 0x11 := by decide
theorem test_decode_seReg : decode 0b0101000100100000 = .seReg 1 2 := by decide
theorem test_decode_ldByte : decode 0b0110101011111111 = .ldByte 0xA 0xFF := by decide
theorem test_decode_addByte : decode 0b0111000000000010 = .addByte 0 2 := by decide
theorem test_decode_ldReg : decode 0b1000000000010000 = .ldReg 0 1 := by decide
theorem test_decode_orReg : decode 0b1000000000010001 = .orReg 0 1 := by decide
theorem test_decode_andReg : decode 0b1000000000010010 = .andReg 0 1 := by decide
theorem test_decode_xorReg : decode 0b1000001000100011 = .xorReg 2 2 := by decide
theorem test_decode_addReg : decode 0b1000111100010100 = .addReg 0xF 1 := by decide
theorem test_decode_subReg : decode 0b1000000000010101 = .subReg 0 1 := by decide
theorem test_decode_shr : decode 0b1000000011110110 = .shr 0 0xF := by decide
theorem test_decode_subnReg : decode 0b1000000100000111 = .subnReg 1 0 := by decide
theorem test_decode_shl : decode 0b1000001000001110 = .shl 2 0 := by decide
theorem test_decode_sneReg : decode 0b1001000100100000 = .sneReg 1 2 := by decide
theorem test_decode_ldI : decode 0b1010001100000000 = .ldI 0x300 := by decide
theorem test_decode_jpOffset : decode 0b1011001011110000 = .jpOffset 0x2F0 := by decide
theorem test_decode_rnd : decode 0b1100001100001111 = .rnd 3 0x0F := by decide
theorem test_decode_drw : decode 0b1101101010110010 = .drw 0xA 0xB 2 := by decide
theorem test_decode_ldVxDt : decode 0b1111001100000111 = .ldVxDt 3 := by decide
theorem test_decode_ldDtVx : decode 0b1111001100010101 = .ldDtVx 3 := by decide
theorem test_decode_ldStVx : decode 0b1111010000011000 = .ldStVx 4 := by decide
theorem test_decode_addI : decode 0b1111000100011110 = .addI 1 := by decide
theorem test_decode_ldF : decode 0b1111010100101001 = .ldF 5 := by decide
theorem test_decode_ldB : decode 0b1111000000110011 = .ldB 0 := by decide
theorem test_decode_storeRegs : decode 0b1111001001010101 = .storeRegs 2 := by decide
theorem test_decode_loadRegs : decode 0b1111001001100101 = .loadRegs 2 := by decide
theorem test_decode_sysHalt : decode 0b0000000111100000 = .sysHalt 0x1E0 := by decide
theorem test_decode_malformedSe : decode 0b0101000100100001 = .malformedSe 1 2 1 := by decide
theorem test_decode_unmatched8 : decode 0b1000000100101000 = .unmatched8 1 2 := by decide
theorem test_decode_unmatched9 : decode 0b1000000100101001 = .unmatched9 1 2 := by decide
theorem test_decode_unmatchedA : decode 0b1000000100101010 = .unmatchedA 1 2 := by decide
theorem test_decode_unmatchedB : decode 0b1000000100101011 = .unmatchedB 1 2 := by decide
theorem test_decode_unmatchedC : decode 0b1000000100101100 = .unmatchedC 1 2 := by decide
theorem test_decode_unmatchedD : decode 0b1000000100101101 = .unmatchedD 1 2 := by decide
theorem test_decode_unmatchedF : decode 0b1000000100101111 = .unmatchedF 1 2 := by decide
theorem test_decode_malformedSne : decode 0b1001000100101000 = .malformedSne 1 2 8 := by decide
theorem test_decode_familyE : decode 0b1110000110011110 = .familyE 1 0x9E := by decide
theorem test_decode_familyF : decode 0b1111000100001010 = .familyF 1 0x0A := by decide
theorem test_decode_bytes : decodeBytes [0xA3, 0x00, 0x12] = .ok (.ldI 0x300, [0x12]) := by decide
theorem test_decode_truncated : decodeBytes [0xA3] = .error .truncated := by decide
theorem test_decodeTableWord : decodeTableWord 16 0xDAB2 = some (.drw 0xA 0xB 2) := by decide

/-! ### Small states -/

/-- The state an outcome goes on to, `s` if it goes on to none. -/
def after (s : State) : Host.Outcome State Fault Refusal → State
  | .next t => t
  | .fault _ => s
  | .refused _ => s

/-- The handler of `i` run on `s`. -/
def run (i : Instr) (s : State) : State := after s (exec i s)

/-- Modern mode under WRAP, registers as listed. -/
def modern (rs : List (Reg × Byte)) : State := rs.foldl (fun s r => s.setV r.1 r.2) State.reset

/-- Legacy mode under WRAP, registers as listed. -/
def legacy (rs : List (Reg × Byte)) : State :=
  rs.foldl (fun s r => s.setV r.1 r.2) (State.afterReset { Launch.default with legacyMode := true })

/-- Modern mode under FAULT, registers as listed. -/
def faulting (rs : List (Reg × Byte)) : State :=
  rs.foldl (fun s r => s.setV r.1 r.2) (State.afterReset { Launch.default with addrPolicy := .fault })

/-- Bytes placed from an address on. -/
def withBytes (s : State) (a : Nat) (bs : List Byte) : State :=
  s.setMem (Memory.writeList s.launch.fontTable s.mem a bs)

/-- The core stopped in HALTED with this cause. -/
def haltedWith (c : HaltCause) (s : State) : Bool := decide (s.fsm = .halted) && decide (s.haltCause = c)

/-! ### Control transfer (95_test_vectors.md 2.2) -/

-- CF-1
theorem test_jp : (run (.jp 0xABC) (modern [])).pc = 0x0ABC := by decide
-- CF-2
theorem test_call : ((run (.call 0x300) ((modern []).setPc 0x204)).stk[0], (run (.call 0x300) ((modern []).setPc 0x204)).pc)
    = (0x0204, 0x0300) := by decide
-- CF-3
theorem test_call_overflow : haltedWith .stackOverflow (run (.call 0x300) { modern [] with sp := 16 }) = true := by
  decide
-- CF-4
theorem test_ret : (run .ret (run (.call 0x300) ((modern []).setPc 0x204))).pc = 0x0204 := by decide
-- CF-5
theorem test_ret_underflow : haltedWith .stackUnderflow (run .ret (modern [])) = true := by decide
-- CF-6 and CF-6b, PC being a + 2 in EXECUTE
theorem test_seByte : (run (.seByte 3 0x10) ((modern [(3, 0x10)]).setPc 0x202)).pc = 0x204 := by decide
theorem test_seByte_not : (run (.seByte 3 0x10) ((modern [(3, 0x11)]).setPc 0x202)).pc = 0x202 := by decide
-- CF-7
theorem test_sneByte : (run (.sneByte 3 0x11) ((modern [(3, 0x10)]).setPc 0x202)).pc = 0x204 := by decide
theorem test_sneByte_not : (run (.sneByte 3 0x10) ((modern [(3, 0x10)]).setPc 0x202)).pc = 0x202 := by decide
-- CF-8 and CF-8b
theorem test_seReg : (run (.seReg 1 2) ((modern [(1, 7), (2, 7)]).setPc 0x202)).pc = 0x204 := by decide
theorem test_seReg_not : (run (.seReg 1 2) ((modern [(1, 7), (2, 8)]).setPc 0x202)).pc = 0x202 := by decide
-- CF-9
theorem test_sneReg : (run (.sneReg 1 2) ((modern [(1, 7), (2, 8)]).setPc 0x202)).pc = 0x204 := by decide
-- CF-10 and CF-10b
theorem test_jpOffset_legacy : (run (.jpOffset 0x300) (legacy [(0, 0x10), (3, 0x55)])).pc = 0x0310 := by decide
theorem test_jpOffset_modern : (run (.jpOffset 0x300) (modern [(0, 0x10), (3, 0x55)])).pc = 0x0355 := by decide

/-! ### Arithmetic and logic (95_test_vectors.md 2.3; VF starts at 0x55) -/

-- A-1
theorem test_ldByte : (run (.ldByte 0xA 0xFF) (modern [])).getV 0xA = 0xFF := by decide
-- A-2 and A-3
theorem test_addByte : ((run (.addByte 0 2) (modern [(0, 0xFF), (0xF, 0x55)])).getV 0,
    (run (.addByte 0 2) (modern [(0, 0xFF), (0xF, 0x55)])).getV 0xF) = (0x01, 0x55) := by decide
theorem test_addByte_vf : (run (.addByte 0xF 0xFF) (modern [(0xF, 2)])).getV 0xF = 1 := by decide
-- A-4
theorem test_ldReg : (run (.ldReg 0 1) (modern [(1, 0x3C)])).getV 0 = 0x3C := by decide
-- A-5, with VF unchanged
theorem test_orReg : (run (.orReg 0 1) (modern [(0, 0xF0), (1, 0x0F)])).getV 0 = 0xFF := by decide
theorem test_orReg_vf : (run (.orReg 0 1) (modern [(0, 0xF0), (0xF, 0x55)])).getV 0xF = 0x55 := by decide
-- A-6 and A-7
theorem test_andReg : (run (.andReg 0 1) (modern [(0, 0xF3), (1, 0x3F)])).getV 0 = 0x33 := by decide
theorem test_xorReg : (run (.xorReg 0 1) (modern [(0, 0xF3), (1, 0x3F)])).getV 0 = 0xCC := by decide
-- A-9 and A-12
theorem test_addReg : ((run (.addReg 0 1) (modern [(0, 0xC8), (1, 0x64)])).getV 0,
    (run (.addReg 0 1) (modern [(0, 0xC8), (1, 0x64)])).getV 0xF) = (0x2C, 1) := by decide
theorem test_addReg_vf : (run (.addReg 0xF 1) (modern [(0xF, 0x10), (1, 0xF5)])).getV 0xF = 1 := by decide
-- A-14 and A-16
theorem test_subReg : ((run (.subReg 0 1) (modern [(1, 0xFF), (0xF, 0x55)])).getV 0,
    (run (.subReg 0 1) (modern [(1, 0xFF), (0xF, 0x55)])).getV 0xF) = (0x01, 0) := by decide
theorem test_subReg_equal : (run (.subReg 1 1) (modern [(1, 0x42), (0xF, 0x55)])).getV 0xF = 0 := by decide
-- R139's example: V0 = 5, V1 = 3 and V0 = 3, V1 = 5
theorem test_subnReg : ((run (.subnReg 0 1) (modern [(0, 5), (1, 3)])).getV 0,
    (run (.subnReg 0 1) (modern [(0, 5), (1, 3)])).getV 0xF) = (0xFE, 0) := by decide
theorem test_subnReg_greater : (run (.subnReg 0 1) (modern [(0, 3), (1, 5)])).getV 0xF = 1 := by decide
-- A-20 and A-21
theorem test_shr_modern : ((run (.shr 0 1) (modern [(0, 1), (1, 0xFF)])).getV 0,
    (run (.shr 0 1) (modern [(0, 1), (1, 0xFF)])).getV 0xF) = (0, 1) := by decide
theorem test_shr_legacy : ((run (.shr 0 1) (legacy [(1, 3)])).getV 0,
    (run (.shr 0 1) (legacy [(1, 3)])).getV 0xF) = (1, 1) := by decide
-- A-25 and A-26
theorem test_shl_modern : ((run (.shl 0 0) (modern [(0, 0xFF)])).getV 0,
    (run (.shl 0 0) (modern [(0, 0xFF)])).getV 0xF) = (0xFE, 1) := by decide
theorem test_shl_legacy : ((run (.shl 0 1) (legacy [(1, 0xC0)])).getV 0,
    (run (.shl 0 1) (legacy [(1, 0xC0)])).getV 0xF) = (0x80, 1) := by decide
-- A-28, whatever the draw is
theorem test_rnd_zero : (run (.rnd 3 0) (modern [(3, 0x77)])).getV 3 = 0 := by
  simp [run, after, exec, execRnd]
theorem test_rnd_fresh : (run (.rnd 3 0) (modern [])).rndDraws = 1 := by decide

/-! ### Display (95_test_vectors.md 2.4) -/

-- DR-2 and DR-3
theorem test_drw : ((run (.drw 0 1 1) (withBytes ((modern []).setI 0x300) 0x300 [0x80])).fb.cell 0 0,
    (run (.drw 0 1 1) (withBytes ((modern []).setI 0x300) 0x300 [0x80])).getV 0xF) = (true, 0) := by decide
-- DR-4: clipped at column 63 and row 31; V0 = 60, V1 = 31
theorem test_drw_clips : (run (.drw 0 1 2) (withBytes ((modern [(0, 60), (1, 31)]).setI 0x300) 0x300 [0xFF, 0xFF])).fb.cell 31 63
    = true := by decide
-- DR-1
theorem test_cls : (run .cls ((modern []).setFb (Framebuffer.blank.toggle 3 4))).fb.cell 3 4 = false := by decide
-- DR-10 and DR-11
theorem test_drw_fault : haltedWith .addressFault (run (.drw 0 1 3) ((faulting []).setI 0xFFE)) = true := by decide
theorem test_drw_clipped_rows_unread :
    (run (.drw 0 1 3) ((faulting [(1, 30)]).setI 0xFFE)).haltCause = .none := by decide

/-! ### Index register, timers and memory (95_test_vectors.md 2.5) -/

-- M-1 to M-4
theorem test_ldI : (run (.ldI 0x300) (modern [])).i = 0x0300 := by decide
theorem test_ldVxDt : (run (.ldVxDt 3) ((modern []).setDt 0x2A)).getV 3 = 0x2A := by decide
theorem test_ldDtVx : (run (.ldDtVx 3) (modern [(3, 0x3C)])).dt = 0x3C := by decide
theorem test_ldStVx : (run (.ldStVx 4) (modern [(4, 5)])).st = 5 := by decide
-- M-5 and M-6
theorem test_addI_modern : ((run (.addI 1) ((modern [(1, 1)]).setI 0x0FFF)).i,
    (run (.addI 1) ((modern [(1, 1)]).setI 0x0FFF)).getV 0xF) = (0x1000, 1) := by decide
theorem test_addI_legacy : (run (.addI 1) ((legacy [(1, 1)]).setI 0x0FFF)).getV 0xF = 0 := by decide
-- M-11
theorem test_ldF : (run (.ldF 5) (modern [(5, 0x1F)])).i = 0x009B := by decide
-- M-13 and M-14
theorem test_ldB_wraps : (run (.ldB 0) ((modern [(0, 123)]).setI 0xFFF)).mem = [(0, 2), (1, 3), (0xFFF, 1)] := by
  decide
theorem test_ldB_fault : haltedWith .addressFault (run (.ldB 0) ((faulting [(0, 123)]).setI 0xFFE)) = true := by
  decide
-- M-15
theorem test_storeRegs : (run (.storeRegs 2) ((legacy [(0, 1), (1, 2), (2, 3)]).setI 0x400)).mem
    = [(0x400, 1), (0x401, 2), (0x402, 3)] := by decide
theorem test_storeRegs_i : ((run (.storeRegs 2) ((legacy []).setI 0x400)).i,
    (run (.storeRegs 2) ((modern []).setI 0x400)).i) = (0x403, 0x400) := by decide
-- M-20, with V3 unchanged
theorem test_loadRegs : (run (.loadRegs 2) (withBytes ((modern [(3, 9)]).setI 0x300) 0x300 [2, 5, 4])).v.toList.take 4
    = [2, 5, 4, 9] := by decide
theorem test_loadRegs_i : (run (.loadRegs 0xF) ((legacy []).setI 0x300)).i = 0x310 := by decide

/-! ### Halting rows (95_test_vectors.md 2.1) -/

-- D-1, D-3, D-4, D-6, D-7
theorem test_sysHalt : haltedWith .decode (run (.sysHalt 0x123) (modern [])) = true := by decide
theorem test_malformedSe : haltedWith .malformedSkip (run (.malformedSe 1 2 1) (modern [])) = true := by decide
theorem test_malformedSne : haltedWith .malformedSkip (run (.malformedSne 1 2 8) (modern [])) = true := by decide
theorem test_familyE : haltedWith .decode (run (.familyE 1 0x9E) (modern [])) = true := by decide
theorem test_familyF : haltedWith .decode (run (.familyF 1 0x0A) (modern [])) = true := by decide
-- D-5
theorem test_unmatched8 : haltedWith .decode (run (.unmatched8 1 2) (modern [])) = true := by decide
theorem test_unmatched9 : haltedWith .decode (run (.unmatched9 1 2) (modern [])) = true := by decide
theorem test_unmatchedA : haltedWith .decode (run (.unmatchedA 1 2) (modern [])) = true := by decide
theorem test_unmatchedB : haltedWith .decode (run (.unmatchedB 1 2) (modern [])) = true := by decide
theorem test_unmatchedC : haltedWith .decode (run (.unmatchedC 1 2) (modern [])) = true := by decide
theorem test_unmatchedD : haltedWith .decode (run (.unmatchedD 1 2) (modern [])) = true := by decide
theorem test_unmatchedF : haltedWith .decode (run (.unmatchedF 1 2) (modern [])) = true := by decide

/-! ### Steps, ticks and the host (95_test_vectors.md 2.1, 2.6) -/

-- L1-10, first cycle: 6005 at 0x200
theorem test_step_runs : let t := after State.reset (step (State.reset.withFetchWord 16 0x6005))
    (t.getV 0, t.pc, t.ir, t.fsm) = (5, 0x202, 0x6005, .fetch) := by decide
-- L1-9: 00EE at 0x200 from reset
theorem test_step_halts : let t := after State.reset (step (State.reset.withFetchWord 16 0x00EE))
    (t.fsm, t.haltCause, t.pc, t.sp) = (.halted, .stackUnderflow, 0x202, 0) := by decide
-- F-4 and F-4f
theorem test_fetch_wraps : (withBytes (withBytes ((modern []).setPc 0xFFF) 0xFFF [0x12]) 0 [0x34]).fetch.ir = 0x1234 := by
  decide
theorem test_fetch_faults : ((faulting []).setPc 0xFFF).fetch.pc = 0xFFF ∧
    haltedWith .addressFault ((faulting []).setPc 0xFFF).fetch = true := by decide
-- T-1, T-2 and T-3
theorem test_tick : ((modern []).setDt 5).tick.dt = 4 := by decide
theorem test_tick_saturates : ((modern []).setSt 1).tick.tick.st = 0 := by decide
theorem test_tick_once : { modern [] with ticked := true, runEn := true, tickStrobe := true }.tickDue = false := by
  decide
-- D-8: an empty ROM
theorem test_empty_rom : (after State.reset (State.reset.boot { Launch.default with rom := some [] })).mem = [] := by decide
-- R141, R217: RST puts DT back and does not take the random draws back
theorem test_rst_keeps_draws :
    let s := { State.afterReset { Launch.default with rom := some [0x12] } with rndDraws := 3, dt := 9 }
    ((after s (s.hostMove .rst)).rndDraws, (after s (s.hostMove .rst)).dt) = (3, 0) := by decide
-- R231: the machine stays idle with no ROM
theorem test_reset_idle : after State.reset (step State.reset) = State.reset := by decide
-- R63 and R57: the glyph of A at 0x082
theorem test_font : [0x082, 0x083, 0x084, 0x085, 0x086].map State.reset.byteAt = [0xF0, 0x90, 0xF0, 0x90, 0x90] := by
  decide

/-! ### Witnesses: a concrete state and operands that meet the hypotheses of each statement, at the edges of its
clauses -/

/-- Reset with 6005 where the next step fetches it. -/
def ready : State := State.reset.withFetchWord 16 0x6005

/-- A state at a boundary where a tick is due. -/
def ticking : State := { ready with tickStrobe := true, dt := 1, st := 0 }

/-- A state in EXECUTE whose IR holds the word. -/
def executing (w : Word) : State := { ready with fsm := .execute, ir := w }

theorem witness_DecodeOfEncode : (Instr.familyF 0xF 0xFF).wellFormed = true ∧ (Instr.drw 0xF 0xF 0xF).wellFormed = true := by
  decide
theorem witness_EveryWordIsOneInstructionOrHalts : (decode 0x0000).haltCause = some .decode ∧
    (Instr.jp 0xFFF).wellFormed = true ∧ encode (.jp 0xFFF) = 0x1FFF := by decide
theorem witness_StepRunsTheDecodedInstruction : ready.runEn = true ∧ ready.fsm = .fetch ∧ ready.tickDue = false ∧
    ready.ea ready.pc.toNat = some 0x200 ∧ ready.ea (ready.pc.toNat + 1) = some 0x201 ∧
    decode (ready.byteAt 0x200 ++ ready.byteAt 0x201) = .ldByte 0 5 ∧ (Instr.ldByte 0 5).wellFormed = true := by decide
theorem witness_FetchPastMemoryFaults :
    let s := ((faulting []).setPc 0xFFF).withFetchWord 16 0
    s.runEn = true ∧ s.fsm = .fetch ∧ s.tickDue = false ∧ s.launch.addrPolicy = .fault ∧ 4096 ≤ s.pc.toNat + 1 := by
  decide
theorem witness_HaltedOrHeldCoreStands : (ready.halt .decode).fsm = .halted ∧ State.reset.runEn = false := by decide
theorem witness_TickCountsBothTimersDown : ticking.tickDue = true ∧ ready.tickDue = false := by decide
theorem witness_ExecuteRunsOneHandler_completes :
    let s := executing 0x6005
    s.runEn = true ∧ s.fsm = .execute ∧ (run (decode s.ir) s).fsm ≠ .halted := by decide
theorem witness_ExecuteRunsOneHandler_halts :
    let s := executing 0x00EE
    s.runEn = true ∧ s.fsm = .execute ∧ (run (decode s.ir) s).fsm = .halted ∧ (decode 0xE000).haltCause = some .decode := by
  decide
theorem witness_ExecuteRunsOneHandler_other : ∀ x kk, Instr.cls ≠ .rnd x kk := fun _ _ => Instr.noConfusion
theorem witness_InstructionsWriteOnlyTheirParts : exec .cls ready = .next (run .cls ready) ∧
    exec (.sysHalt 0) ready = .next (run (.sysHalt 0) ready) := ⟨rfl, rfl⟩
theorem witness_InstructionsWriteOnlyTheirRegisters : exec (.addReg 0 1) ready = .next (run (.addReg 0 1) ready) ∧
    ¬ writesRegOf 0xE (.addReg 0 1) := ⟨rfl, by unfold writesRegOf; decide⟩
theorem witness_OnlyMemoryInstructionsTouchMemory : touchesMemory (.ldI 0xFFF) = false := by decide
theorem witness_DevicesReachedOnlyByTheirInstructions : Instr.ret ≠ .cls ∧ (∀ x y n, Instr.ret ≠ .drw x y n) ∧
    (∀ x, Instr.cls ≠ .ldVxDt x) ∧ ∀ x, Instr.cls ≠ .ldDtVx x :=
  ⟨Instr.noConfusion, fun _ _ _ => Instr.noConfusion, fun _ => Instr.noConfusion, fun _ => Instr.noConfusion⟩
theorem witness_StepKeepsTheInvariant : ready.inv = true ∧ step ready = .next (after ready (step ready)) := ⟨by decide, rfl⟩
theorem witness_HostMovesKeepTheInvariant :
    let s := State.afterReset { Launch.default with rom := some [0x12] }
    s.inv = true ∧ s.hostMove (.setRunEn true) = .next (after s (s.hostMove (.setRunEn true))) ∧
      s.hostMove .rst = .next (after s (s.hostMove .rst)) := ⟨by decide, rfl, rfl⟩
theorem witness_ResetValues : State.reset.byteAt 0x04F = 0 ∧ State.reset.byteAt 0x050 = Config.conventionalFont[0] ∧
    State.reset.byteAt 0x09F = Config.conventionalFont[79] ∧ State.reset.byteAt 0x0A0 = 0 ∧
    State.reset.stk[15] = 0 := by decide
theorem witness_RomIsLoadedVerbatim (b : Byte) :
    (List.replicate 3584 b).length ≤ 3584 ∧ 3584 < (List.replicate 3585 b).length :=
  ⟨Nat.le_of_eq List.length_replicate, Nat.lt_of_lt_of_eq (by decide) List.length_replicate.symm⟩
theorem witness_RomIsLoadedVerbatim_bytes :
    let t := after State.reset (State.reset.boot { Launch.default with rom := some [0xAA, 0xBB] })
    (t.byteAt 0x1FF, t.byteAt 0x200, t.byteAt 0x201, t.byteAt 0x202) = (0, 0xAA, 0xBB, 0) := by decide
theorem witness_ResetPutsEveryPartAtItsResetValue :
    ({ ready with rndDraws := 3, dt := 9, runEn := true }.resetTo ready.launch).rndDraws = 3 := by decide
theorem witness_FreeDrawsAreNeverMadeTwice :
    let s := { State.afterReset { Launch.default with rom := some [0x12] } with rndDraws := 3, tickDraws := 5 }
    step s = .next (after s (step s)) ∧ s.hostMove .rst = .next (after s (s.hostMove .rst)) ∧
      s.hostMove (.launch s.launch) = .next (after s (s.hostMove (.launch s.launch))) := ⟨rfl, rfl, rfl⟩

/-- A core at a boundary before 1200 at 0x200, a jump to itself; the rest as in `t`. -/
def selfLoop (t : State) : State :=
  { t with pc := 0x200, mem := [(0x200, 0x12)], launch := Launch.default, runEn := true, fsm := .fetch }

/-- The rest after a step of that core. -/
def selfLoopRest (t : State) : State :=
  if (selfLoop t).tickDue then t.tick else { t with ir := 0x1200, ticked := false }.sampleTick

theorem step_selfLoop (t : State) : step (selfLoop t) = .next (selfLoop (selfLoopRest t)) := by
  rcases step_cases (selfLoop t) with ⟨h, _⟩ | ⟨_, h, _⟩ | ⟨_, h, _⟩ | ⟨h, e⟩ | ⟨_, _, h, e⟩
  · exact absurd h (by simp [selfLoop])
  · exact absurd h (by simp [selfLoop])
  · exact absurd h (by simp [selfLoop])
  · rw [e, selfLoopRest, if_pos h]; rfl
  · have d : decode 0x1200 = .jp 0x200 := by decide
    have f : (selfLoop t).fetch =
        { selfLoop t with ir := 0x1200, pc := 0x202, ticked := false, fsm := .execute } := by
      have hi : (selfLoop t).memRead 0x200 = some 0x12 :=
        show (selfLoop State.reset).memRead 0x200 = some 0x12 by decide
      have lo : (selfLoop t).memRead 0x201 = some 0x00 :=
        show (selfLoop State.reset).memRead 0x201 = some 0x00 by decide
      rw [State.fetch, show (selfLoop t).pc.toNat = 0x200 from rfl, hi, lo]
      rfl
    rw [e, selfLoopRest, if_neg (by simp [h]), State.cycle, f]
    simp only [State.execute]
    rw [d]
    rfl

/-- The rest after n steps of that core. -/
def selfLoopRun (t : State) : Nat → State
  | 0 => t
  | n + 1 => selfLoopRest (selfLoopRun t n)

theorem witness_TicksComeForever (t : State) : EndlessRun fun n => selfLoop (selfLoopRun t n) :=
  fun _ => ⟨step_selfLoop _, rfl, nofun⟩
theorem witness_TimersReachZero (t : State) (n : Nat) (h : (selfLoop (selfLoopRun t n)).tickDue = false) :
    (selfLoop (selfLoopRun t (n + 1))).dt = (selfLoop (selfLoopRun t n)).dt ∧
      (selfLoop (selfLoopRun t (n + 1))).st = (selfLoop (selfLoopRun t n)).st := by
  rw [selfLoopRun, selfLoopRest, if_neg (by simp [h])]
  exact ⟨rfl, rfl⟩
theorem witness_StepKeepsTheLaunchInputs : step ready = .next (after ready (step ready)) := rfl
theorem witness_WrapNeverRaisesAddressFault : ready.launch.addrPolicy = .wrap ∧ ready.haltCause ≠ .addressFault ∧
    step ready = .next (after ready (step ready)) := ⟨rfl, by decide, rfl⟩
theorem witness_EffectiveAddress : (modern []).ea 4096 = some 0 ∧ (faulting []).ea 4095 = some 4095 ∧
    (faulting []).ea 4096 = none := by decide
theorem witness_MemoriesThatReadAlikeAreEqual : Memory.wf Config.conventionalFont [(0, 1), (0x50, 0), (4095, 2)] = true := by
  decide
theorem witness_RetPopsOrUnderflows : 0 < (run (.call 0) ready).sp.val ∧ ready.sp.val = 0 := by decide
theorem witness_CallPushesOrOverflows : ({ ready with sp := 15 } : State).sp.val < 16 ∧
    ({ ready with sp := 16 } : State).sp.val = 16 := by decide
theorem witness_SeRegSkips : (1 : Nibble) ≠ 0 ∧ (0xF : Nibble) ≠ 0 := by decide
theorem witness_SneRegSkips : (1 : Nibble) ≠ 0 ∧ (8 : Nibble) ≠ 0 := by decide
theorem witness_flag_statements : (0xE : Reg) ≠ regVF ∧ (0xE : Reg) ≠ 0 := by decide
theorem witness_ClsClearsEveryCell : (run .cls ((modern []).setFb (Framebuffer.blank.toggle 31 63))).fb.cell 31 63 = false := by
  decide

/-- FAULT, a sprite whose two drawn rows end at 0xFFF (DR-11). -/
def edge : State := (faulting [(1, 30)]).setI 0xFFE

theorem witness_DrwXorsTheClippedSprite : edge.reaches edge.i.toNat (edge.spriteRows 1 3) :=
  .inr (.inr (by decide))
theorem witness_CollisionIsACellTurnedOff : edge.reaches edge.i.toNat (edge.spriteRows 1 3) ∧
    (run (.drw 0 1 1) (run (.drw 0 1 1) (withBytes ((modern []).setI 0x300) 0x300 [0x80]))).getV 0xF = 1 :=
  ⟨.inr (.inr (by decide)), by decide⟩
theorem witness_DrawingTwiceRestores : (0 : Reg) ≠ regVF ∧ (1 : Reg) ≠ regVF ∧
    edge.reaches edge.i.toNat (edge.spriteRows 1 3) := ⟨by decide, by decide, .inr (.inr (by decide))⟩
theorem witness_AccessesPastMemoryFault :
    ¬ (edge.setI 0xFFF).reaches 0xFFF ((edge.setI 0xFFF).spriteRows 1 2) ∧ ¬ edge.reaches 0xFFE 3 ∧
      ¬ edge.reaches 0xFFF ((1 : Reg).toNat + 1) := by
  refine ⟨?_, ?_, ?_⟩ <;> (unfold State.reaches; decide)
theorem witness_LdBStoresDecimalDigits :
    let s := (faulting []).setI 0xFFD
    Memory.wf s.launch.fontTable s.mem = true ∧ s.reaches s.i.toNat 3 ∧ s.ea (s.i.toNat + 2) = some 0xFFF :=
  ⟨by decide, .inr (.inr (by decide)), by decide⟩
theorem witness_StoreRegsStoresTheBlock :
    let s := (faulting []).setI 0xFF0
    Memory.wf s.launch.fontTable s.mem = true ∧ s.reaches s.i.toNat ((0xF : Reg).toNat + 1) ∧
      s.ea (s.i.toNat + 15) = some 0xFFF := ⟨by decide, .inr (.inr (by decide)), by decide⟩
theorem witness_LoadRegsLoadsTheBlock :
    let s := (faulting []).setI 0xFFF
    s.reaches s.i.toNat ((0 : Reg).toNat + 1) ∧ s.ea s.i.toNat = some 0xFFF := ⟨.inr (.inr (by decide)), by decide⟩
theorem witness_DelayTimerIsAnEightBitCounter : ticking.tickDue = true ∧ 0 < ticking.dt.toNat ∧
    ¬ 0 < ticking.tick.dt.toNat := by decide
theorem witness_SoundTimerIsReadByNoInstruction : ticking.tickDue = true ∧ ticking.st = 0 ∧ (∀ x, Instr.cls ≠ .ldStVx x) :=
  ⟨by decide, by decide, fun _ => Instr.noConfusion⟩

end Sys2Proof.Tests
end

/-! ### Ticks

The two timers count alike, so what a due tick does to either is said once (R28, R29, R212). -/

namespace Sys2Proof.Machine

/-- When a tick is due (R212, R217). -/
theorem State.tickDue_iff (s : State) :
    s.tickDue = true ↔ s.fsm = .fetch ∧ s.runEn = true ∧ s.ticked = false ∧ s.tickStrobe = true := by
  simp [State.tickDue, and_assoc]

/-- The step from a boundary at which a tick is due is that tick (R212). -/
theorem step_of_tickDue (s : State) (h : s.tickDue = true) : step s = .next s.tick := by
  obtain ⟨hfsm, hrun, -, -⟩ := s.tickDue_iff.1 h
  simp [step, State.advance, hfsm, hrun, h]

/-- Counting down is subtraction that stops at zero. -/
theorem toNat_countDown (t : Byte) : (countDown t).toNat = t.toNat - 1 := by
  unfold countDown
  split
  next h => rw [h]; rfl
  next h => bv_omega

theorem toNat_countDown_eq_ite (t : Byte) :
    (countDown t).toNat = if 0 < t.toNat then t.toNat - 1 else 0 := by
  rw [toNat_countDown]
  split <;> omega

end Sys2Proof.Machine

/-! ### Parts an instruction neither reads nor writes

An instruction has nothing to do with a part of the state if changing that part first and running the
instruction then is the same as running it first and changing the part then. That is said here for any change
`f` of the state: `SparesCore f`, `SparesMemory f` and `SparesFb f` are equations between `f` and the accessors
of Machine/Ops.lean, `Spares f i` collects those that the instruction `i` needs, and `exec_comm` is the one
walk over the dispatch. The statement about one part is `exec_comm` with `f` the setter of that part. -/

namespace Sys2Proof.Machine

@[simp] theorem mapNext_next (f : State → State) (s : State) : mapNext f (.next s) = .next (f s) := rfl

/-- `f` changes nothing that every instruction may use: the registers, PC, I, the stack, the mode and what a halt
records. -/
structure SparesCore (f : State → State) : Prop where
  getV : ∀ s r, (f s).getV r = s.getV r
  pc : ∀ s, (f s).pc = s.pc
  i : ∀ s, (f s).i = s.i
  stk : ∀ s, (f s).stk = s.stk
  sp : ∀ s, (f s).sp = s.sp
  legacyMode : ∀ s, (f s).launch.legacyMode = s.launch.legacyMode
  setV : ∀ s x b, (f s).setV x b = f (s.setV x b)
  setPc : ∀ s w, (f s).setPc w = f (s.setPc w)
  setI : ∀ s w, (f s).setI w = f (s.setI w)
  setStack : ∀ s k p, { f s with stk := k, sp := p } = f { s with stk := k, sp := p }
  halt : ∀ s c, (f s).halt c = f (s.halt c)

/-- `f` changes nothing that an access to memory uses. -/
structure SparesMemory (f : State → State) : Prop where
  mem : ∀ s, (f s).mem = s.mem
  fontTable : ∀ s, (f s).launch.fontTable = s.launch.fontTable
  addrPolicy : ∀ s, (f s).launch.addrPolicy = s.launch.addrPolicy
  setMem : ∀ s m, (f s).setMem m = f (s.setMem m)

/-- `f` changes nothing that the display instructions use of the framebuffer. -/
structure SparesFb (f : State → State) : Prop where
  fb : ∀ s, (f s).fb = s.fb
  setFb : ∀ s g, (f s).setFb g = f (s.setFb g)

/-- `f` changes nothing that the instruction uses beside what `SparesCore` speaks of. -/
def Spares (f : State → State) : Instr → Prop
  | .cls => SparesFb f
  | .drw _ _ _ => SparesMemory f ∧ SparesFb f
  | .ldB _ | .storeRegs _ | .loadRegs _ => SparesMemory f
  | .ldVxDt _ => ∀ s, (f s).dt = s.dt
  | .ldDtVx _ => ∀ s b, (f s).setDt b = f (s.setDt b)
  | .ldStVx _ => ∀ s b, (f s).setSt b = f (s.setSt b)
  | .rnd _ _ => ∀ s, (f s).drawRnd = (s.drawRnd.1, f s.drawRnd.2)
  | _ => True

section Core

variable {f : State → State} (hf : SparesCore f)
include hf

theorem SparesCore.skipIf (s : State) (c : Bool) : (f s).skipIf c = f (s.skipIf c) := by
  cases c with
  | false => rfl
  | true => simp [State.skipIf, State.advancePc, hf.pc, hf.setPc]

theorem SparesCore.setFlag (s : State) (c : Bool) : (f s).setFlag c = f (s.setFlag c) :=
  hf.setV s regVF (boolByte c)

theorem SparesCore.setResultFlag (s : State) (x : Reg) (b : Byte) (c : Bool) :
    (f s).setResultFlag x b c = f (s.setResultFlag x b c) := by
  simp only [State.setResultFlag, hf.setV, hf.setFlag]

theorem SparesCore.shiftOperand (s : State) (x y : Reg) :
    (f s).shiftOperand x y = s.shiftOperand x y := by
  simp only [State.shiftOperand, hf.legacyMode, hf.getV]

theorem SparesCore.offsetRegister (s : State) (nnn : Addr12) :
    (f s).offsetRegister nnn = s.offsetRegister nnn := by
  simp only [State.offsetRegister, hf.legacyMode]

/-- A check that raises, raises in both orders. -/
theorem SparesCore.orHalt (s : State) (c : HaltCause) (o : Option State) :
    (f s).orHalt c (o.map f) = f (s.orHalt c o) := by
  cases o with
  | none => exact hf.halt s c
  | some t => rfl

theorem SparesCore.push (s : State) (w : Word) : (f s).push w = (s.push w).map f := by
  simp only [State.push_eq, hf.sp, hf.stk, hf.setStack]
  split <;> rfl

theorem SparesCore.pop (s : State) : (f s).pop = s.pop.map fun p => (p.1, f p.2) := by
  simp only [State.pop_eq, hf.sp, hf.stk, hf.setStack]
  split <;> rfl

theorem SparesCore.block (s : State) (n : Nat) : (f s).block n = s.block n := by
  simp only [State.block, hf.getV]

theorem SparesCore.loadBlock (s : State) (k : Nat) (bs : List Byte) :
    (f s).loadBlock k bs = f (s.loadBlock k bs) := by
  induction bs generalizing s k with
  | nil => rfl
  | cons b bs ih => simp only [State.loadBlock, hf.setV, ih]

theorem SparesCore.bumpI (s : State) (x : Reg) : (f s).bumpI x = f (s.bumpI x) := by
  simp only [State.bumpI, hf.legacyMode, hf.i, hf.setI, apply_ite f]

end Core

section Memory

variable {f : State → State} (hm : SparesMemory f)
include hm

theorem SparesMemory.ea (s : State) (a : Nat) : (f s).ea a = s.ea a := by
  simp only [State.ea, hm.addrPolicy]

theorem SparesMemory.memRead (s : State) (a : Nat) : (f s).memRead a = s.memRead a := by
  have hb : (f s).byteAt = s.byteAt := by
    funext a
    simp only [State.byteAt, hm.mem, hm.fontTable]
  rw [State.memRead, hm.ea, hb, State.memRead]

theorem SparesMemory.memWrite (s : State) (a : Nat) (b : Byte) :
    (f s).memWrite a b = (s.memWrite a b).map f := by
  simp only [State.memWrite, hm.ea, hm.mem, hm.fontTable, hm.setMem, Option.map_map, Function.comp_def]

theorem SparesMemory.readBytes (s : State) (a n : Nat) : (f s).readBytes a n = s.readBytes a n := by
  induction n generalizing a with
  | zero => rfl
  | succ n ih => simp only [State.readBytes, hm.memRead, ih]

theorem SparesMemory.writeBytes (s : State) (a : Nat) (bs : List Byte) :
    (f s).writeBytes a bs = (s.writeBytes a bs).map f := by
  induction bs generalizing s a with
  | nil => rfl
  | cons b bs ih =>
    simp only [State.writeBytes, hm.memWrite]
    cases s.memWrite a b with
    | none => rfl
    | some t => exact ih t (a + 1)

end Memory

theorem SparesCore.drawSprite {f : State → State} (hf : SparesCore f) (hb : SparesFb f) (s : State) (x y : Reg)
    (bytes : List Byte) : (f s).drawSprite x y bytes = s.drawSprite x y bytes := by
  simp only [State.drawSprite, State.spriteRow, State.spriteColumn, hb.fb, hf.getV]

/-- An instruction does the same before and after a change of the state that spares what it uses. -/
theorem exec_comm {f : State → State} (hf : SparesCore f) (i : Instr) (hi : Spares f i) (s : State) :
    exec i (f s) = mapNext f (exec i s) := by
  cases i with
  | ldByte | addByte | ldReg | orReg | andReg | xorReg =>
    simp only [exec, execLdByte, execAddByte, execLdReg, execOrReg, execAndReg, execXorReg, mapNext_next,
      hf.getV, hf.setV]
  | addReg | subReg | subnReg | shr | shl =>
    simp only [exec, execAddReg, execSubReg, execSubnReg, execShr, execShl, mapNext_next, hf.getV,
      hf.shiftOperand, hf.setResultFlag]
  | seByte | sneByte | seReg | sneReg =>
    simp only [exec, execSeByte, execSneByte, execSeReg, execSneReg, mapNext_next, hf.getV, hf.skipIf]
  | jp | jpOffset =>
    simp only [exec, execJp, execJpOffset, mapNext_next, hf.getV, hf.offsetRegister, hf.setPc]
  | call nnn =>
    simp only [exec, execCall, mapNext_next, hf.pc, hf.push, ← hf.orHalt, Option.map_map, Function.comp_def,
      hf.setPc]
  | ret =>
    simp only [exec, execRet, mapNext_next, hf.pop, ← hf.orHalt, Option.map_map, Function.comp_def, hf.setPc]
  | ldI | ldF => simp only [exec, execLdI, execLdF, mapNext_next, hf.getV, hf.setI]
  | addI x =>
    simp only [exec, execAddI, mapNext_next, hf.i, hf.getV, hf.legacyMode, hf.setI, hf.setFlag, apply_ite f]
  | rnd x kk =>
    have hdraw : ∀ s, (f s).drawRnd = (s.drawRnd.1, f s.drawRnd.2) := hi
    simp only [exec, execRnd, mapNext_next, hdraw, hf.setV]
  | ldVxDt x =>
    have hdt : ∀ s, (f s).dt = s.dt := hi
    simp only [exec, execLdVxDt, mapNext_next, hdt, hf.setV]
  | ldDtVx x =>
    have hset : ∀ s b, (f s).setDt b = f (s.setDt b) := hi
    simp only [exec, execLdDtVx, mapNext_next, hset, hf.getV]
  | ldStVx x =>
    have hset : ∀ s b, (f s).setSt b = f (s.setSt b) := hi
    simp only [exec, execLdStVx, mapNext_next, hset, hf.getV]
  | cls =>
    have hb : SparesFb f := hi
    simp only [exec, execCls, mapNext_next, hb.setFb]
  | drw x y n =>
    obtain ⟨hm, hb⟩ : SparesMemory f ∧ SparesFb f := hi
    simp only [exec, execDrw, mapNext_next, hf.i, State.spriteRow, hf.getV, hm.readBytes, hf.drawSprite hb,
      ← hf.orHalt, Option.map_map, Function.comp_def, hb.setFb, hf.setFlag]
  | ldB x =>
    have hm : SparesMemory f := hi
    simp only [exec, execLdB, mapNext_next, hf.i, hf.getV, hm.writeBytes, hf.orHalt]
  | storeRegs x =>
    have hm : SparesMemory f := hi
    simp only [exec, execStoreRegs, mapNext_next, hf.i, hf.block, hm.writeBytes, ← hf.orHalt, Option.map_map,
      Function.comp_def, hf.bumpI]
  | loadRegs x =>
    have hm : SparesMemory f := hi
    simp only [exec, execLoadRegs, mapNext_next, hf.i, hm.readBytes, ← hf.orHalt, Option.map_map,
      Function.comp_def, hf.loadBlock, hf.bumpI]
  | sysHalt | malformedSe | unmatched8 | unmatched9 | unmatchedA | unmatchedB | unmatchedC | unmatchedD
  | unmatchedF | malformedSne | familyE | familyF => exact congrArg _ (hf.halt s _)

end Sys2Proof.Machine

/-! ### The state's parts: the timers (10_state.md) -/

namespace Sys2Proof.Machine

theorem sparesCore_setSt (b : Byte) : SparesCore (·.setSt b) := by
  constructor <;> intros <;> rfl

/-- Only FX18 uses ST. -/
theorem spares_setSt (b : Byte) (i : Instr) (hi : ∀ x, i ≠ .ldStVx x) : Spares (·.setSt b) i := by
  have hm : SparesMemory (·.setSt b) := by constructor <;> intros <;> rfl
  have hb : SparesFb (·.setSt b) := by constructor <;> intros <;> rfl
  cases i with
  | ldStVx x => exact absurd rfl (hi x)
  | cls => exact hb
  | drw => exact ⟨hm, hb⟩
  | ldB | storeRegs | loadRegs => exact hm
  | ldVxDt | rnd => exact fun _ => rfl
  | ldDtVx => exact fun _ _ => rfl
  | _ => trivial

/-- Settles O60: FX18 overwrites ST, every other instruction spares it, and a due tick counts it down. -/
theorem soundTimerIsReadByNoInstruction : Obligations.SoundTimerIsReadByNoInstruction := by
  refine ⟨fun x s => ⟨_, rfl, rfl⟩, fun i s b hi => ?_, fun _ _ _ => rfl, fun s h => ?_, fun _ => rfl⟩
  · exact exec_comm (sparesCore_setSt b) i (spares_setSt b i hi) s
  · exact ⟨s.tick, step_of_tickDue s h, toNat_countDown_eq_ite s.st⟩

/-- Settles O59: FX15 writes DT, FX07 reads it, and a due tick counts it down. -/
theorem delayTimerIsAnEightBitCounter : Obligations.DelayTimerIsAnEightBitCounter := by
  refine fun x s => ⟨⟨_, rfl, rfl⟩, ⟨_, rfl, s.getV_setV_self x s.dt⟩, fun h => ?_⟩
  exact ⟨s.tick, step_of_tickDue s h, toNat_countDown_eq_ite s.dt⟩

end Sys2Proof.Machine

/-! ### Words and instructions (30_encoding.md)

Decoding and encoding are inverse to each other between the words and the well-formed instructions. Both
directions follow the table: by family from a word, by row from an instruction. -/

namespace Sys2Proof

/-- The well-formed instruction i has the encoding w. -/
structure Instr.Encodes (i : Instr) (w : Word) : Prop where
  wellFormed : i.wellFormed = true
  encode_eq : encode i = w

theorem Instr.Encodes.of_eq {i : Instr} {w w' : Word} (h : i.Encodes w) (hw : w = w') : i.Encodes w' :=
  hw ▸ h

/-! #### A word put together from its family's number and its other fields -/

theorem wordNNN_of_fieldF {w : Word} {f : Nibble} (h : fieldF w = f) : wordNNN f (fieldNNN w) = w :=
  h ▸ wordNNN_fields w

theorem wordXKK_of_fieldF {w : Word} {f : Nibble} (h : fieldF w = f) :
    wordXKK f (fieldX w) (fieldKK w) = w := h ▸ wordXKK_fields w

theorem wordXYN_of_fieldF {w : Word} {f : Nibble} (h : fieldF w = f) :
    wordXYN f (fieldX w) (fieldY w) (fieldN w) = w := h ▸ wordXYN_fields w

/-! #### The instruction that a word decodes to has that encoding -/

theorem decodeFamily0_encodes (nnn : Addr12) : (decodeFamily0 nnn).Encodes (wordNNN 0x0 nnn) := by
  unfold decodeFamily0
  split_ifs with hcls hret
  · exact ⟨rfl, by rw [hcls]; rfl⟩
  · exact ⟨rfl, by rw [hret]; rfl⟩
  · exact ⟨by simpa [Instr.wellFormed] using And.intro hcls hret, rfl⟩

theorem decodeFamily8_encodes (x y : Reg) (n : Nibble) :
    (decodeFamily8 x y n).Encodes (wordXYN 0x8 x y n) := by
  unfold decodeFamily8
  split
  case h_16 =>
    have hn : n = 0xF := by simp only [imp_false] at *; bv_omega
    exact ⟨rfl, by rw [hn]; rfl⟩
  all_goals exact ⟨rfl, rfl⟩

theorem decodeFamilyF_encodes (x : Reg) (kk : Byte) :
    (decodeFamilyF x kk).Encodes (wordXKK 0xF x kk) := by
  unfold decodeFamilyF
  split
  case h_9 =>
    have hk : kk ∉ familyFSelectors := by simp_all [familyFSelectors]
    exact ⟨by simpa [Instr.wellFormed] using hk, rfl⟩
  all_goals exact ⟨rfl, rfl⟩

/-- The decoded instruction is well-formed and encoding it drops no bit of the word. -/
theorem decode_encodes (w : Word) : (decode w).Encodes w := by
  unfold decode
  split -- case `h_k` is family k - 1
  case h_1 hf => exact (decodeFamily0_encodes _).of_eq (wordNNN_of_fieldF hf)
  case h_9 hf => exact (decodeFamily8_encodes _ _ _).of_eq (wordXYN_of_fieldF hf)
  case h_16 =>
    have hf : fieldF w = 0xF := by simp only [imp_false] at *; bv_omega
    exact (decodeFamilyF_encodes _ _).of_eq (wordXKK_of_fieldF hf)
  case h_6 hf | h_10 hf =>
    have hw := wordXYN_of_fieldF hf
    by_cases hn : fieldN w = 0
    · rw [hn] at hw ⊢
      exact ⟨rfl, hw⟩
    · simp only [hn, if_false]
      exact ⟨by simpa [Instr.wellFormed] using hn, hw⟩
  case h_2 hf | h_3 hf | h_11 hf | h_12 hf => exact ⟨rfl, wordNNN_of_fieldF hf⟩
  case h_4 hf | h_5 hf | h_7 hf | h_8 hf | h_13 hf | h_15 hf => exact ⟨rfl, wordXKK_of_fieldF hf⟩
  case h_14 hf => exact ⟨rfl, wordXYN_of_fieldF hf⟩

/-! #### The word of an instruction decodes to it -/

/-- The last row of family F takes every byte that selects none of its instructions (R75). -/
theorem decodeFamilyF_of_notMem {kk : Byte} (h : kk ∉ familyFSelectors) (x : Reg) :
    decodeFamilyF x kk = .familyF x kk := by
  unfold decodeFamilyF
  split
  case h_9 => rfl
  all_goals exact absurd (by decide) h

/-- Encoding drops no operand (R70, R78). -/
theorem decode_encode (i : Instr) (h : i.wellFormed = true) : decode (encode i) = i := by
  cases i with
  | cls | ret => rfl
  | sysHalt nnn =>
    have hn : nnn ≠ 0x0E0#12 ∧ nnn ≠ 0x0EE#12 := by simpa [Instr.wellFormed] using h
    simp [encode, decode, decodeFamily0, hn]
  | malformedSe x y n | malformedSne x y n =>
    have hn : n ≠ 0#4 := by simpa [Instr.wellFormed] using h
    simp [encode, decode, hn]
  | familyF x kk =>
    have hk : kk ∉ familyFSelectors := by simpa [Instr.wellFormed] using h
    simp [encode, decode, decodeFamilyF_of_notMem hk]
  | _ => simp [encode, decode, decodeFamily8, decodeFamilyF]

/-- No other well-formed instruction has the word's encoding (R76). -/
theorem Instr.Encodes.eq_decode {i : Instr} {w : Word} (h : i.Encodes w) : i = decode w := by
  rw [← h.encode_eq, decode_encode i h.wellFormed]

end Sys2Proof

namespace Sys2Proof.Machine

/-- Executing a halting row is the halt with that row's cause and nothing else (R75, R94). -/
theorem exec_of_haltCause {i : Instr} {c : HaltCause} (h : i.haltCause = some c) (s : State) :
    exec i s = .next (s.halt c) := by
  cases i with
  | sysHalt | unmatched8 | unmatched9 | unmatchedA | unmatchedB | unmatchedC | unmatchedD | unmatchedF
  | familyE | familyF | malformedSe | malformedSne => cases h; rfl
  | _ => cases h

/-- Settles O2: `decode` is a two-sided inverse of `encode`, so a word's instruction is unique. -/
theorem everyWordIsOneInstructionOrHalts : Obligations.EveryWordIsOneInstructionOrHalts := by
  intro w
  obtain ⟨hwf, henc⟩ := decode_encodes w
  exact ⟨⟨hwf, henc, fun j hj hw => Instr.Encodes.eq_decode ⟨hj, hw⟩⟩, fun s _ hc => exec_of_haltCause hc s⟩

end Sys2Proof.Machine

/-! ### Frames

What an update leaves unchanged, said once per update that more than one instruction makes. -/

namespace Sys2Proof.Machine

theorem frame_setPc (s : State) (w : Word) : Frame [.pc] s (s.setPc w) := by
  intro p hp
  cases p with
  | pc => simp at hp
  | v | mem => exact fun _ => rfl
  | stack => exact ⟨rfl, rfl⟩
  | _ => rfl

/-- A transfer through the stack writes the stack and PC alone. -/
theorem frame_setStack_setPc (s : State) (k : Vector Word Config.stackDepth) (n : Fin (Config.stackDepth + 1))
    (w : Word) : Frame [.pc, .stack] s (State.setPc { s with stk := k, sp := n } w) := by
  intro p hp
  cases p with
  | pc | stack => simp at hp
  | v | mem => exact fun _ => rfl
  | _ => rfl

/-- A halt is precise (R94). -/
theorem frame_halt (s : State) (c : HaltCause) : Frame [.fsm, .haltCause] s (s.halt c) := by
  intro p hp
  cases p with
  | fsm | haltCause => simp at hp
  | v | mem => exact fun _ => rfl
  | stack => exact ⟨rfl, rfl⟩
  | _ => rfl

theorem haltsWith_of_exec {i : Instr} {s : State} {c : HaltCause} (h : exec i s = .next (s.halt c)) :
    HaltsWith i s c := ⟨s.halt c, h, rfl, rfl, frame_halt s c⟩

end Sys2Proof.Machine

/-! ### Control transfer (41_control_flow.md) -/

namespace Sys2Proof.Machine

/-! #### Jump, call and return -/

@[simp] theorem toNat_zextAddr (nnn : Addr12) : (zextAddr nnn).toNat = nnn.toNat :=
  BitVec.toNat_setWidth_of_le (by decide)

/-- Settles O30: the jump is one write of PC, and zero-extension keeps the number. -/
theorem jpSetsPc : Obligations.JpSetsPc := fun nnn s =>
  ⟨decode_encode (.jp nnn) rfl, _, rfl, toNat_zextAddr nnn, frame_setPc s _⟩

/-- RET with an entry on the stack (R110). -/
theorem exec_ret_of_pos (s : State) (h : 0 < s.sp.val) :
    exec .ret s = .next (State.setPc { s with sp := ⟨s.sp.val - 1, by omega⟩ }
      (s.stk[s.sp.val - 1]'(by omega))) := by
  simp [exec, execRet, State.pop_eq, h]

/-- RET with an empty stack (R110). -/
theorem exec_ret_of_zero (s : State) (h : s.sp.val = 0) : exec .ret s = .next (s.halt .stackUnderflow) := by
  simp [exec, execRet, State.pop_eq, h]

/-- CALL with room on the stack (R112). -/
theorem exec_call_of_lt (nnn : Addr12) (s : State) (h : s.sp.val < Config.stackDepth) :
    exec (.call nnn) s = .next (State.setPc { s with
      stk := s.stk.set s.sp.val s.pc h, sp := ⟨s.sp.val + 1, by omega⟩ } (zextAddr nnn)) := by
  simp [exec, execCall, State.push_eq, h]

/-- CALL with a full stack (R112). -/
theorem exec_call_of_full (nnn : Addr12) (s : State) (h : s.sp.val = Config.stackDepth) :
    exec (.call nnn) s = .next (s.halt .stackOverflow) := by
  simp [exec, execCall, State.push_eq, h]

theorem decode_eq_ret_iff (w : Word) : decode w = .ret ↔ w = 0x00EE := by
  constructor
  · intro h
    have henc := (decode_encodes w).encode_eq
    rw [h] at henc
    exact henc.symm
  · rintro rfl
    exact decode_encode .ret rfl

/-- Settles O29, by whether the stack has an entry. -/
theorem retPopsOrUnderflows : Obligations.RetPopsOrUnderflows :=
  ⟨decode_eq_ret_iff,
    fun s h => ⟨_, exec_ret_of_pos s h, rfl, rfl, rfl, frame_setStack_setPc s _ _ _⟩,
    fun s h => haltsWith_of_exec (exec_ret_of_zero s h)⟩

/-- Settles O31, by whether the stack has room; the RET right after pops the entry that CALL pushed. -/
theorem callPushesOrOverflows : Obligations.CallPushesOrOverflows := by
  refine fun nnn s => ⟨decode_encode (.call nnn) rfl, fun h => ?_, fun h =>
    haltsWith_of_exec (exec_call_of_full nnn s h)⟩
  refine ⟨_, exec_call_of_lt nnn s h, toNat_zextAddr nnn, Vector.getElem_set_self h, rfl, fun k hk hne => ?_,
    frame_setStack_setPc s _ _ _, _, exec_ret_of_pos _ (Nat.succ_pos _), ?_, rfl⟩
  · exact Vector.getElem_set_ne h hk hne.symm
  · exact Vector.getElem_set_self h

/-! #### Skips -/

/-- A skip is a write of PC, whether or not the condition holds (R118). -/
theorem skipIf_eq_setPc (s : State) (c : Bool) : s.skipIf c = s.setPc (if c then s.pc + 2 else s.pc) := by
  cases c <;> rfl

theorem skipIf_pc (s : State) (c : Bool) : (s.skipIf c).pc = if c then s.pc + 2 else s.pc := by
  rw [skipIf_eq_setPc, State.setPc_pc]

theorem frame_skipIf (s : State) (c : Bool) : Frame [.pc] s (s.skipIf c) := by
  rw [skipIf_eq_setPc]
  exact frame_setPc s _

theorem skipIf_beq_pc (s : State) (a b : Byte) :
    (s.skipIf (a == b)).pc = if a = b then s.pc + 2 else s.pc := by
  simp [skipIf_pc]

theorem skipIf_bne_pc (s : State) (a b : Byte) :
    (s.skipIf (a != b)).pc = if a = b then s.pc else s.pc + 2 := by
  simp [skipIf_pc]

/-- Settles O32: the instruction is a skip on V[X] = KK. -/
theorem seByteSkips : Obligations.SeByteSkips := fun x kk s =>
  ⟨decode_encode (.seByte x kk) rfl, _, rfl, skipIf_beq_pc s _ _, frame_skipIf s _⟩

/-- Settles O33: the instruction is a skip on the opposite condition of O32. -/
theorem sneByteSkips : Obligations.SneByteSkips := fun x kk s =>
  ⟨decode_encode (.sneByte x kk) rfl, _, rfl, skipIf_bne_pc s _ _, frame_skipIf s _⟩

/-- A well-formed halting row halts from its word (R75, R78). -/
theorem haltsWith_decode_encode {i : Instr} {c : HaltCause} (hwf : i.wellFormed = true)
    (hc : i.haltCause = some c) (s : State) : HaltsWith (decode (encode i)) s c := by
  rw [decode_encode i hwf]
  exact haltsWith_of_exec (exec_of_haltCause hc s)

/-- Settles O34: with a nonzero low nibble the word is that of a halting row. -/
theorem seRegSkips : Obligations.SeRegSkips := fun x y n s =>
  ⟨decode_encode (.seReg x y) rfl, ⟨_, rfl, skipIf_beq_pc s _ _, frame_skipIf s _⟩,
    fun hn => haltsWith_decode_encode (i := .malformedSe x y n) (bne_iff_ne.2 hn) rfl s⟩

/-- Settles O35: with a nonzero low nibble the word is that of a halting row. -/
theorem sneRegSkips : Obligations.SneRegSkips := fun x y n s =>
  ⟨decode_encode (.sneReg x y) rfl, ⟨_, rfl, skipIf_bne_pc s _ _, frame_skipIf s _⟩,
    fun hn => haltsWith_decode_encode (i := .malformedSne x y n) (bne_iff_ne.2 hn) rfl s⟩

end Sys2Proof.Machine

/-! ### Loads and immediate addition (42_alu.md)

Each of these instructions is one write of a register, and VF is written only as the destination (R130 to R132). -/

namespace Sys2Proof.Machine

theorem frame_setV (s : State) (x : Reg) (b : Byte) : Frame [.v] s (s.setV x b) := by
  intro p hp
  cases p with
  | v => simp at hp
  | mem => exact fun _ => rfl
  | stack => exact ⟨rfl, rfl⟩
  | _ => rfl

/-- The value and the frame of an instruction whose whole effect is the write of one register. -/
theorem writesRegister_of_exec {i : Instr} {s : State} {x : Reg} {b : Byte}
    (h : exec i s = .next (s.setV x b)) :
    ∃ t, exec i s = .next t ∧ t.getV x = b ∧ (∀ r, r ≠ x → t.getV r = s.getV r) ∧ Frame [.v] s t :=
  ⟨s.setV x b, h, s.getV_setV_self x b, fun r => s.getV_setV_of_ne x r b, frame_setV s x b⟩

/-- Settles O37: the instruction is one write of V[X]. -/
theorem ldByteSetsARegister : Obligations.LdByteSetsARegister := fun x kk _ =>
  ⟨decode_encode (.ldByte x kk) rfl, writesRegister_of_exec rfl⟩

/-- Settles O38: the value written is the sum of two bytes, and a sum of bytes wraps modulo 256. -/
theorem addByteWrapsWithoutFlag : Obligations.AddByteWrapsWithoutFlag := by
  intro x kk s
  obtain ⟨t, hexec, hx, hother, hframe⟩ := writesRegister_of_exec (i := .addByte x kk) (s := s) rfl
  have hsum : (t.getV x).toNat = ((s.getV x).toNat + kk.toNat) % 256 := by
    rw [hx, BitVec.toNat_add]
  exact ⟨decode_encode (.addByte x kk) rfl, t, hexec, hsum, hother, hframe⟩

/-- Settles O39: the instruction is one write of V[X], with the old V[Y]. -/
theorem ldRegCopies : Obligations.LdRegCopies := fun x y _ =>
  ⟨decode_encode (.ldReg x y) rfl, writesRegister_of_exec rfl⟩

end Sys2Proof.Machine

/-! ### Display (43_display.md)

DXYN draws the bytes that `State.drawnBytes` lists. What that does is said against `State.spriteCovers`, cell by
cell: a covered cell flips (R163), and the detector's flag tells whether a covered cell was on (R162). -/

namespace Sys2Proof.Machine

/-! #### CLS -/

/-- The only word of a well-formed instruction is its encoding (R76). -/
theorem decode_eq_iff {i : Instr} (h : i.wellFormed = true) (w : Word) : decode w = i ↔ w = encode i :=
  ⟨fun hw => hw ▸ (decode_encodes w).encode_eq.symm, fun hw => hw ▸ decode_encode i h⟩

theorem frame_setFb (s : State) (g : Framebuffer) : Frame [.fb] s (s.setFb g) := by
  intro p hp
  cases p with
  | fb => simp at hp
  | v | mem => exact fun _ => rfl
  | stack => exact ⟨rfl, rfl⟩
  | _ => rfl

/-- Settles O45: the instruction is one write of the blank framebuffer. -/
theorem clsClearsEveryCell : Obligations.ClsClearsEveryCell :=
  ⟨decode_eq_iff (i := .cls) rfl, fun s => ⟨_, rfl, fun r c _ _ => cell_blank r c, frame_setFb s _⟩⟩

/-! #### The sprite that DXYN draws -/

/-- The bytes of the sprite's drawn rows, where they can all be reached (R161). -/
def State.drawnBytes (s : State) (y : Reg) (n : Nibble) : List Byte :=
  (List.range (s.spriteRows y n)).map fun k => s.byteAt ((s.i.toNat + k) % Config.memSize)

@[simp] theorem length_drawnBytes (s : State) (y : Reg) (n : Nibble) :
    (s.drawnBytes y n).length = s.spriteRows y n := by
  simp [State.drawnBytes]

theorem getD_drawnBytes (s : State) (y : Reg) (n : Nibble) {j : Nat} (hj : j < s.spriteRows y n) :
    (s.drawnBytes y n).getD j 0 = s.byteAt ((s.i.toNat + j) % Config.memSize) := by
  simp [State.drawnBytes, hj]

/-- DXYN where the drawn rows' bytes can all be reached (R161). -/
theorem exec_drw_of_reaches (x y : Reg) (n : Nibble) (s : State) (h : s.reaches s.i.toNat (s.spriteRows y n)) :
    exec (.drw x y n) s = .next ((s.setFb (s.drawSprite x y (s.drawnBytes y n)).fb).setFlag
      (s.drawSprite x y (s.drawnBytes y n)).hit) := by
  have hbytes : s.readBytes s.i.toNat (drawnRows n (s.spriteRow y)) = some (s.drawnBytes y n) :=
    s.readBytes_of_reaches _ _ h
  simp only [exec, execDrw, hbytes, Option.map_some, State.orHalt_some]

/-- Cell (r, c) lies in the rows and columns left after clipping (R161, R164). -/
abbrev State.drawnAt (s : State) (x y : Reg) (n : Nibble) (r c : Nat) : Prop :=
  s.spriteRow y ≤ r ∧ r < s.spriteRow y + (s.drawnBytes y n).length ∧
    s.spriteColumn x ≤ c ∧ c < s.spriteColumn x + drawnColumns (s.spriteColumn x)

/-- The drawn rows and columns stay on the grid: nothing wraps but the start position (R164). -/
theorem drawn_le_grid (s : State) (x y : Reg) (n : Nibble) :
    s.spriteRow y + (s.drawnBytes y n).length ≤ 32 ∧
      s.spriteColumn x + drawnColumns (s.spriteColumn x) ≤ 64 := by
  simp only [length_drawnBytes, State.spriteRows, State.spriteRow, State.spriteColumn, drawnColumns,
    Config.fbHeight, Config.fbWidth]
  omega

/-- On the grid, clipping takes nothing from the n rows and 8 columns of the whole sprite (R164). -/
theorem drawnAt_iff (s : State) (x y : Reg) (n : Nibble) {r c : Nat} (hr : r < 32) (hc : c < 64) :
    s.drawnAt x y n r c ↔ s.spriteRow y ≤ r ∧ r < s.spriteRow y + n.toNat ∧
      s.spriteColumn x ≤ c ∧ c < s.spriteColumn x + 8 := by
  simp only [State.drawnAt, length_drawnBytes, State.spriteRows, State.spriteRow, State.spriteColumn,
    drawnColumns, Config.fbHeight, Config.fbWidth]
  omega

/-- The sprite covers the cells of its drawn rows and columns whose bit is set (R161). -/
theorem spriteCovers_iff (s : State) (x y : Reg) (n : Nibble) {r c : Nat} (hr : r < 32) (hc : c < 64) :
    s.spriteCovers x y n r c = true ↔ s.drawnAt x y n r c ∧
      spriteBit ((s.drawnBytes y n).getD (r - s.spriteRow y) 0) (c - s.spriteColumn x) = true := by
  rw [State.spriteCovers, Bool.and_eq_true, decide_eq_true_iff]
  refine (and_congr_left' (drawnAt_iff s x y n hr hc).symm).trans (and_congr_right fun hdrawn => ?_)
  obtain ⟨hr0, hr1, -, -⟩ := hdrawn
  rw [length_drawnBytes] at hr1
  rw [getD_drawnBytes s y n (by omega)]
  rfl

/-- DXYN flips the covered cells and no other (R163). -/
theorem cell_drawSprite (s : State) (x y : Reg) (n : Nibble) {r c : Nat} (hr : r < 32) (hc : c < 64) :
    (s.drawSprite x y (s.drawnBytes y n)).fb.cell r c = (s.fb.cell r c ^^ s.spriteCovers x y n r c) := by
  obtain ⟨hrows, hcols⟩ := drawn_le_grid s x y n
  have hflips := (plotRows_spec (s.drawnBytes y n) ⟨s.fb, false⟩ _ _ _ hrows hcols).1 r c
  refine hflips.trans (congrArg _ (Bool.eq_iff_iff.2 ?_))
  rw [spriteCovers_iff s x y n hr hc, Bool.and_eq_true, decide_eq_true_iff]

/-- A cell goes from on to off exactly when it was on and the sprite covers it (R162). -/
theorem cell_turnedOff_iff (s : State) (x y : Reg) (n : Nibble) {r c : Nat} (hr : r < 32) (hc : c < 64) :
    s.fb.cell r c = true ∧ (s.drawSprite x y (s.drawnBytes y n)).fb.cell r c = false ↔
      s.spriteCovers x y n r c = true ∧ s.fb.cell r c = true := by
  rw [cell_drawSprite s x y n hr hc]
  cases s.fb.cell r c <;> simp

/-- The detector's flag tells whether a covered cell was on (R162). -/
theorem hit_drawSprite_iff (s : State) (x y : Reg) (n : Nibble) :
    (s.drawSprite x y (s.drawnBytes y n)).hit = true ↔
      ∃ r c, r < 32 ∧ c < 64 ∧ s.spriteCovers x y n r c = true ∧ s.fb.cell r c = true := by
  obtain ⟨hrows, hcols⟩ := drawn_le_grid s x y n
  refine (plotRows_spec (s.drawnBytes y n) ⟨s.fb, false⟩ _ _ _ hrows hcols).2.trans ⟨?_, ?_⟩
  · rintro (hhit | ⟨j, hj, k, hk, hbit, hon⟩)
    · cases hhit
    · have hr : s.spriteRow y + j < 32 := by omega
      have hc : s.spriteColumn x + k < 64 := by omega
      have hdrawn : s.drawnAt x y n (s.spriteRow y + j) (s.spriteColumn x + k) := by omega
      refine ⟨_, _, hr, hc, (spriteCovers_iff s x y n hr hc).2 ⟨hdrawn, ?_⟩, hon⟩
      rwa [Nat.add_sub_cancel_left, Nat.add_sub_cancel_left]
  · rintro ⟨r, c, hr, hc, hcovers, hon⟩
    obtain ⟨⟨hr0, hr1, hc0, hc1⟩, hbit⟩ := (spriteCovers_iff s x y n hr hc).1 hcovers
    refine .inr ⟨r - s.spriteRow y, by omega, c - s.spriteColumn x, by omega, hbit, ?_⟩
    rwa [Nat.add_sub_cancel' hr0, Nat.add_sub_cancel' hc0]

/-! #### DXYN's outputs -/

theorem frame_setFb_setFlag (s : State) (g : Framebuffer) (c : Bool) :
    Frame [.v, .fb] s ((s.setFb g).setFlag c) := by
  intro p hp
  cases p with
  | v | fb => simp at hp
  | mem => exact fun _ => rfl
  | stack => exact ⟨rfl, rfl⟩
  | _ => rfl

theorem boolByte_eq_one_iff (c : Bool) : boolByte c = 1 ↔ c = true := by
  cases c <;> decide

theorem boolByte_eq_zero_of_ne_one {c : Bool} (h : boolByte c ≠ 1) : boolByte c = 0 := by
  cases c with
  | false => rfl
  | true => exact absurd rfl h

@[simp] theorem State.getV_setFlag_regVF (s : State) (c : Bool) : (s.setFlag c).getV regVF = boolByte c :=
  s.getV_setV_self regVF _

theorem State.getV_setFlag_of_ne (s : State) (c : Bool) {r : Reg} (h : r ≠ regVF) :
    (s.setFlag c).getV r = s.getV r :=
  s.getV_setV_of_ne regVF r _ h

/-- Settles O47: VF is the detector's flag, which `hit_drawSprite_iff` and `cell_turnedOff_iff` describe. -/
theorem collisionIsACellTurnedOff : Obligations.CollisionIsACellTurnedOff := by
  intro x y n s h
  have hcollision := (boolByte_eq_one_iff _).trans (hit_drawSprite_iff s x y n)
  refine ⟨_, exec_drw_of_reaches x y n s h, ?_⟩
  rw [State.getV_setFlag_regVF]
  refine ⟨hcollision, hcollision.trans ?_, boolByte_eq_zero_of_ne_one,
    fun r hr => State.getV_setFlag_of_ne _ _ hr, frame_setFb_setFlag s _ _⟩
  exact exists_congr fun r => exists_congr fun c => and_congr_right fun hr => and_congr_right fun hc =>
    (cell_turnedOff_iff s x y n hr hc).symm

end Sys2Proof.Machine

/-! ### Index register and timers (44_index_timer_memory.md)

Each of these instructions is one write of I, of a timer or of a register (R180, R181, R183, R185). -/

namespace Sys2Proof.Machine

theorem frame_setI (s : State) (w : Word) : Frame [.i] s (s.setI w) := by
  intro p hp
  cases p with
  | i => simp at hp
  | v | mem => exact fun _ => rfl
  | stack => exact ⟨rfl, rfl⟩
  | _ => rfl

theorem frame_setSt (s : State) (b : Byte) : Frame [.st] s (s.setSt b) := by
  intro p hp
  cases p with
  | st => simp at hp
  | v | mem => exact fun _ => rfl
  | stack => exact ⟨rfl, rfl⟩
  | _ => rfl

/-- Settles O50: the instruction is one write of I, and zero-extension keeps the number. -/
theorem ldISetsI : Obligations.LdISetsI := fun nnn s =>
  ⟨decode_encode (.ldI nnn) rfl, _, rfl, toNat_zextAddr nnn, frame_setI s _⟩

/-- Settles O51: the instruction is one write of V[X], with DT. -/
theorem ldVxDtReadsTheDelayTimer : Obligations.LdVxDtReadsTheDelayTimer := fun x _ =>
  ⟨decode_encode (.ldVxDt x) rfl, writesRegister_of_exec rfl⟩

/-- Settles O53: the instruction is one write of ST, and the output shows ST as it stands. -/
theorem ldStVxSetsTheSoundTimer : Obligations.LdStVxSetsTheSoundTimer := fun x s =>
  ⟨decode_encode (.ldStVx x) rfl, _, rfl, rfl, rfl, frame_setSt s _⟩

/-- The glyph's address as a number: the mask keeps the low nibble, and 16 bits hold the sum (R185). -/
theorem toNat_glyphAddr (v : Byte) : (glyphAddr v).toNat = 0x050 + 5 * (v.toNat % 16) := by
  have hmask : (v &&& 0x0F).toNat = v.toNat % 16 := Nat.and_two_pow_sub_one_eq_mod v.toNat 4
  rw [glyphAddr, Config.fontBase, Config.glyphSize, hmask, BitVec.toNat_ofNat]
  exact Nat.mod_eq_of_lt (by omega)

/-- Settles O55: the instruction is one write of I, and a nibble is at most 15. -/
theorem ldFPointsAtTheGlyph : Obligations.LdFPointsAtTheGlyph := by
  intro x s
  have haddr := toNat_glyphAddr (s.getV x)
  exact ⟨decode_encode (.ldF x) rfl, s.setI (glyphAddr (s.getV x)), rfl, haddr,
    by rw [State.setI_i]; omega, by rw [State.setI_i]; omega, frame_setI s _⟩

end Sys2Proof.Machine

/-! ### Words as numbers, and the halting words (30_encoding.md)

The spec lists the halting words by number; the fields of a word are its digits, so each family's part of the
list is a fact about that family's decoder. -/

namespace Sys2Proof

theorem decodeBytes_encodeBytes (i : Instr) : decodeBytes (encodeBytes i) = .ok (decode (encode i), []) := by
  simp only [encodeBytes, decodeBytes, wordOfBytes_bytes]

/-- Settles O1: `decode` undoes `encode`, and the two stored bytes are that word's. -/
theorem decodeOfEncode : Obligations.DecodeOfEncode := fun i h =>
  have hword := decode_encode i h
  ⟨hword, by rw [decodeBytes_encodeBytes, hword]⟩

theorem toNat_div_eq_fieldF (w : Word) : w.toNat / 0x1000 = (fieldF w).toNat := by
  rw [toNat_fieldF]; omega

theorem toNat_lt_iff_fieldF (w : Word) : w.toNat < 0x1000 ↔ (fieldF w).toNat = 0 := by
  rw [toNat_fieldF]; omega

theorem toNat_eq_fieldNNN {w : Word} (h : fieldF w = 0x0) : w.toNat = (fieldNNN w).toNat := by
  have hlt : w.toNat < 0x1000 := (toNat_lt_iff_fieldF w).2 (by rw [h]; rfl)
  rw [toNat_fieldNNN, Nat.mod_eq_of_lt hlt]

/-- Family 0 halts on all but CLS and RET. -/
theorem haltCause_decodeFamily0 (nnn : Addr12) : (decodeFamily0 nnn).haltCause =
    if nnn.toNat ≠ 0x0E0 ∧ nnn.toNat ≠ 0x0EE then some .decode else none := by
  by_cases hcls : nnn = 0x0E0
  · rw [hcls]; rfl
  by_cases hret : nnn = 0x0EE
  · rw [hret]; rfl
  have hn : nnn.toNat ≠ 0x0E0 ∧ nnn.toNat ≠ 0x0EE :=
    ⟨fun e => hcls (BitVec.eq_of_toNat_eq e), fun e => hret (BitVec.eq_of_toNat_eq e)⟩
  rw [decodeFamily0, if_neg hcls, if_neg hret, if_pos hn]
  rfl

/-- Family 8 halts on the nibbles that select no operation. -/
theorem haltCause_decodeFamily8 (x y : Reg) (n : Nibble) : (decodeFamily8 x y n).haltCause =
    if n.toNat ∈ [8, 9, 0xA, 0xB, 0xC, 0xD, 0xF] then some .decode else none := by
  unfold decodeFamily8
  split
  case h_16 =>
    have hn : n = 0xF := by simp only [imp_false] at *; bv_omega
    rw [hn]; rfl
  all_goals rfl

/-- Family F halts on the bytes that select no operation. -/
theorem haltCause_decodeFamilyF (x : Reg) (kk : Byte) : (decodeFamilyF x kk).haltCause =
    if kk.toNat ∉ [0x07, 0x15, 0x18, 0x1E, 0x29, 0x33, 0x55, 0x65] then some .decode else none := by
  unfold decodeFamilyF
  split
  case h_9 =>
    have hk : kk ∉ familyFSelectors := by simp_all [familyFSelectors]
    have hk' : kk.toNat ∉ familyFSelectors.map BitVec.toNat := by
      rwa [List.mem_map_of_injective fun _ _ => BitVec.eq_of_toNat_eq]
    exact (if_pos hk').symm
  all_goals rfl

/-- Settles O3, family by family: a word's family is its first digit, and three families choose by a further
digit. -/
theorem haltingWordsAreTheListedOnes : Obligations.HaltingWordsAreTheListedOnes := by
  intro w
  simp only [toNat_div_eq_fieldF, toNat_lt_iff_fieldF, ← toNat_fieldN, ← toNat_fieldKK]
  unfold decode
  split -- case `h_k` is family k - 1
  case h_1 hf => simp [hf, haltCause_decodeFamily0, toNat_eq_fieldNNN hf]
  case h_9 hf => simp [hf, haltCause_decodeFamily8]
  case h_16 =>
    have hf : fieldF w = 0xF := by simp only [imp_false] at *; bv_omega
    simp [hf, haltCause_decodeFamilyF]
  case h_6 hf | h_10 hf =>
    by_cases hn : fieldN w = 0
    · rw [if_pos hn]
      simp [hf, hn, Instr.haltCause]
    · have hn' : (fieldN w).toNat ≠ 0 := fun e => hn (BitVec.eq_of_toNat_eq e)
      rw [if_neg hn]
      simp [hf, hn', Instr.haltCause]
  all_goals simp [*, Instr.haltCause]

/-- Settles O4: each of the words is computed. -/
theorem writtenOutWordsDecode : Obligations.WrittenOutWordsDecode := by
  unfold Obligations.WrittenOutWordsDecode
  decide

end Sys2Proof

/-! ### Frames of updates made one after the other -/

namespace Sys2Proof.Machine

theorem Part.same_trans {p : Part} {s t u : State} (h : p.same s t) (h' : p.same t u) : p.same s u := by
  cases p with
  | v | mem => exact fun a => (h' a).trans (h a)
  | stack => exact ⟨h'.1.trans h.1, h'.2.trans h.2⟩
  | _ => exact Eq.trans h' h

theorem Frame.refl (l : List Part) (s : State) : Frame l s s := by
  intro p _
  cases p with
  | v | mem => exact fun _ => rfl
  | stack => exact ⟨rfl, rfl⟩
  | _ => rfl

theorem Frame.trans {l l' : List Part} {s t u : State} (h : Frame l s t) (h' : Frame l' t u) :
    Frame (l ++ l') s u := fun p hp =>
  have hp : p ∉ l ∧ p ∉ l' := by simpa using hp
  Part.same_trans (h p hp.1) (h' p hp.2)

theorem Frame.mono {l l' : List Part} {s t : State} (h : Frame l s t) (hl : l ⊆ l') : Frame l' s t :=
  fun p hp => h p fun hin => hp (hl hin)

theorem frame_setDt (s : State) (b : Byte) : Frame [.dt] s (s.setDt b) := by
  intro p hp
  cases p with
  | dt => simp at hp
  | v | mem => exact fun _ => rfl
  | stack => exact ⟨rfl, rfl⟩
  | _ => rfl

theorem frame_setMem (s : State) (m : List Host.Cell) : Frame [.mem] s (s.setMem m) := by
  intro p hp
  cases p with
  | mem => simp at hp
  | v => exact fun _ => rfl
  | stack => exact ⟨rfl, rfl⟩
  | _ => rfl

theorem frame_drawRnd (s : State) : Frame [.rndDraws] s s.drawRnd.2 := by
  intro p hp
  cases p with
  | rndDraws => simp at hp
  | v | mem => exact fun _ => rfl
  | stack => exact ⟨rfl, rfl⟩
  | _ => rfl

/-- Both writes of an operation with a flag are to registers. -/
theorem frame_setResultFlag (s : State) (x : Reg) (b : Byte) (c : Bool) :
    Frame [.v] s (s.setResultFlag x b c) :=
  ((frame_setV s x b).trans (frame_setV _ regVF _)).mono (by simp)

theorem frame_loadBlock (bs : List Byte) (s : State) (k : Nat) : Frame [.v] s (s.loadBlock k bs) := by
  induction bs generalizing s k with
  | nil => exact .refl _ s
  | cons b bs ih => exact ((frame_setV s _ b).trans (ih _ _)).mono (by simp)

/-- The move of I is one write of I (R187, R188). -/
theorem bumpI_eq_setI (s : State) (x : Reg) :
    s.bumpI x = s.setI (if s.launch.legacyMode then s.i + BitVec.ofNat 16 (blockSize x) else s.i) :=
  bumpI_eq s x

theorem frame_bumpI (s : State) (x : Reg) : Frame [.i] s (s.bumpI x) := by
  rw [bumpI_eq_setI]
  exact frame_setI s _

theorem frame_drawRnd_setV (s : State) (x : Reg) (b : Byte) :
    Frame [.v, .rndDraws] s (s.drawRnd.2.setV x b) :=
  ((frame_drawRnd s).trans (frame_setV _ x b)).mono (by simp)

theorem frame_setI_setFlag (s : State) (w : Word) (c : Bool) : Frame [.i, .v] s ((s.setI w).setFlag c) :=
  (frame_setI s w).trans (frame_setV _ regVF _)

theorem frame_setMem_bumpI (s : State) (m : List Host.Cell) (x : Reg) :
    Frame [.mem, .i] s ((s.setMem m).bumpI x) :=
  (frame_setMem s m).trans (frame_bumpI _ x)

theorem frame_loadBlock_bumpI (s : State) (bs : List Byte) (x : Reg) :
    Frame [.v, .i] s ((s.loadBlock 0 bs).bumpI x) :=
  (frame_loadBlock bs s 0).trans (frame_bumpI _ x)

end Sys2Proof.Machine

/-! ### The instructions that access memory

DXYN, FX33, FX55 and FX65 complete when every byte can be reached and halt precisely when one cannot (R56). -/

namespace Sys2Proof.Machine

theorem drawnRows_spriteRow (s : State) (y : Reg) (n : Nibble) : drawnRows n (s.spriteRow y) = s.spriteRows y n :=
  rfl

theorem exec_drw_of_not_reaches (x y : Reg) (n : Nibble) (s : State)
    (h : ¬ s.reaches s.i.toNat (s.spriteRows y n)) : exec (.drw x y n) s = .next (s.halt .addressFault) := by
  simp only [exec, execDrw, drawnRows_spriteRow, s.readBytes_of_not_reaches _ _ h, Option.map_none,
    State.orHalt_none]

theorem exec_ldB_of_reaches (x : Reg) (s : State) (h : s.reaches s.i.toNat 3) :
    exec (.ldB x) s = .next (s.setMem
      (memoryAfter s.launch.fontTable s.mem s.i.toNat (bcdDigits (s.getV x)))) := by
  simp only [exec, execLdB, s.writeBytes_of_reaches (bcdDigits (s.getV x)) _ h, State.orHalt_some]

theorem exec_ldB_of_not_reaches (x : Reg) (s : State) (h : ¬ s.reaches s.i.toNat 3) :
    exec (.ldB x) s = .next (s.halt .addressFault) := by
  simp only [exec, execLdB, s.writeBytes_of_not_reaches (bcdDigits (s.getV x)) _ h, State.orHalt_none]

theorem exec_storeRegs_of_reaches (x : Reg) (s : State) (h : s.reaches s.i.toNat (x.toNat + 1)) :
    exec (.storeRegs x) s = .next ((s.setMem
      (memoryAfter s.launch.fontTable s.mem s.i.toNat (s.block (blockSize x)))).bumpI x) := by
  have hlen : s.reaches s.i.toNat (s.block (blockSize x)).length := by rwa [length_block]
  simp only [exec, execStoreRegs, s.writeBytes_of_reaches _ _ hlen, Option.map_some, State.orHalt_some]

theorem exec_storeRegs_of_not_reaches (x : Reg) (s : State) (h : ¬ s.reaches s.i.toNat (x.toNat + 1)) :
    exec (.storeRegs x) s = .next (s.halt .addressFault) := by
  have hlen : ¬ s.reaches s.i.toNat (s.block (blockSize x)).length := by rwa [length_block]
  simp only [exec, execStoreRegs, s.writeBytes_of_not_reaches _ _ hlen, Option.map_none, State.orHalt_none]

/-- The bytes of a register block, where they can all be reached (R188). -/
def State.blockBytes (s : State) (x : Reg) : List Byte :=
  (List.range (blockSize x)).map fun k => s.byteAt ((s.i.toNat + k) % Config.memSize)

@[simp] theorem length_blockBytes (s : State) (x : Reg) : (s.blockBytes x).length = x.toNat + 1 := by
  simp [State.blockBytes, blockSize]

theorem getElem_blockBytes (s : State) (x : Reg) (k : Nat) (h : k < (s.blockBytes x).length) :
    (s.blockBytes x)[k] = s.byteAt ((s.i.toNat + k) % Config.memSize) := by
  simp [State.blockBytes]

theorem exec_loadRegs_of_reaches (x : Reg) (s : State) (h : s.reaches s.i.toNat (x.toNat + 1)) :
    exec (.loadRegs x) s = .next ((s.loadBlock 0 (s.blockBytes x)).bumpI x) := by
  have hbytes : s.readBytes s.i.toNat (blockSize x) = some (s.blockBytes x) := s.readBytes_of_reaches _ _ h
  simp only [exec, execLoadRegs, hbytes, Option.map_some, State.orHalt_some]

theorem exec_loadRegs_of_not_reaches (x : Reg) (s : State) (h : ¬ s.reaches s.i.toNat (x.toNat + 1)) :
    exec (.loadRegs x) s = .next (s.halt .addressFault) := by
  have hbytes : s.readBytes s.i.toNat (blockSize x) = none := s.readBytes_of_not_reaches _ _ h
  simp only [exec, execLoadRegs, hbytes, Option.map_none, State.orHalt_none]

/-- Settles O49: an access that cannot reach all its bytes is a halt. -/
theorem accessesPastMemoryFault : Obligations.AccessesPastMemoryFault := fun x y n s =>
  ⟨fun h => haltsWith_of_exec (exec_drw_of_not_reaches x y n s h),
    fun h => haltsWith_of_exec (exec_ldB_of_not_reaches x s h),
    fun h => haltsWith_of_exec (exec_storeRegs_of_not_reaches x s h),
    fun h => haltsWith_of_exec (exec_loadRegs_of_not_reaches x s h)⟩

end Sys2Proof.Machine

/-! ### What an instruction can do

Every instruction either completes, within its lists of parts and registers, or halts from the state it started
in. `exec_spec` is the one walk over the instructions; frames, the invariant and the launch inputs follow from
it. -/

namespace Sys2Proof.Machine

theorem addrPolicy_of_not_reaches {s : State} {a n : Nat} (h : ¬ s.reaches a n) :
    s.launch.addrPolicy = .fault := by
  cases hp : s.launch.addrPolicy with
  | wrap => exact absurd (.inl hp) h
  | fault => rfl

theorem State.getV_setResultFlag_of_ne (s : State) {x r : Reg} (b : Byte) (c : Bool) (hx : r ≠ x)
    (hf : r ≠ regVF) : (s.setResultFlag x b c).getV r = s.getV r := by
  rw [State.getV_setResultFlag, if_neg hf, if_neg hx]

@[simp] theorem State.getV_bumpI (s : State) (x r : Reg) : (s.bumpI x).getV r = s.getV r := by
  rw [bumpI_eq_setI, State.getV_setI]

@[simp] theorem State.bumpI_mem (s : State) (x : Reg) : (s.bumpI x).mem = s.mem := by
  rw [bumpI_eq_setI, State.setI_mem]

@[simp] theorem State.loadBlock_mem (s : State) (k : Nat) (bs : List Byte) : (s.loadBlock k bs).mem = s.mem := by
  rw [loadBlock_eq]

/-- Registers above the block keep their values (R188). -/
theorem State.getV_loadBlock_of_lt (s : State) {x r : Reg} (h : x.toNat < r.toNat) :
    (s.loadBlock 0 (s.blockBytes x)).getV r = s.getV r := by
  rw [getV_loadBlock _ _ _ _ (by rw [length_blockBytes]; omega), dif_neg (by rw [length_blockBytes]; omega)]

/-- FX1E writes VF: a modern core whose exact sum passes 0xFFF (R184, decision D10). -/
abbrev State.addIOverflows (s : State) (x : Reg) : Prop :=
  s.launch.legacyMode = false ∧ s.i.toNat + (s.getV x).toNat > 0x0FFF

theorem addIOverflows_iff (s : State) (x : Reg) :
    s.addIOverflows x ↔ (!s.launch.legacyMode && indexOverflow s.i (s.getV x)) = true := by
  simp [State.addIOverflows, indexOverflow]

theorem exec_addI_of_overflows {x : Reg} {s : State} (h : s.addIOverflows x) :
    exec (.addI x) s = .next ((s.setI (s.i + zextByte (s.getV x))).setFlag true) := by
  simp only [exec, execAddI, if_pos ((addIOverflows_iff s x).1 h)]

theorem exec_addI_of_not_overflows {x : Reg} {s : State} (h : ¬ s.addIOverflows x) :
    exec (.addI x) s = .next (s.setI (s.i + zextByte (s.getV x))) := by
  simp only [exec, execAddI, if_neg fun hov => h ((addIOverflows_iff s x).2 hov)]

/-- The instruction went from s to t without a halt: it wrote only what it may, and memory stays canonical. -/
structure Completes (i : Instr) (s t : State) : Prop where
  frame : Frame (writesOf i) s t
  getV : ∀ r, ¬ writesRegOf r i → t.getV r = s.getV r
  wf : Memory.wf s.launch.fontTable s.mem = true → Memory.wf s.launch.fontTable t.mem = true

/-- How an instruction ends: it completes, or it halts with a cause that the addressing policy allows. -/
inductive ExecEnds (i : Instr) (s : State) : State → Prop
  | completes {t : State} (h : Completes i s t) : ExecEnds i s t
  | halts {c : HaltCause} (hne : c ≠ .none) (hpolicy : c = .addressFault → s.launch.addrPolicy = .fault) :
    ExecEnds i s (s.halt c)

theorem execEnds_of_not_reaches {i : Instr} {s : State} {a n : Nat} (h : ¬ s.reaches a n) :
    ExecEnds i s (s.halt .addressFault) :=
  .halts (by decide) fun _ => addrPolicy_of_not_reaches h

/-- Every instruction answers a next state, and ends there in one of the two ways. -/
theorem exec_spec (i : Instr) (s : State) : ∃ t, exec i s = .next t ∧ ExecEnds i s t := by
  cases i with
  | ldByte | addByte | ldReg | orReg | andReg | xorReg | ldVxDt =>
    exact ⟨_, rfl, .completes ⟨frame_setV s _ _, fun r hr => s.getV_setV_of_ne _ r _ hr, id⟩⟩
  | addReg | subReg | subnReg | shr | shl =>
    exact ⟨_, rfl, .completes ⟨frame_setResultFlag s _ _ _,
      fun r hr => s.getV_setResultFlag_of_ne _ _ (fun e => hr (.inl e)) fun e => hr (.inr e), id⟩⟩
  | rnd x kk =>
    exact ⟨_, rfl, .completes ⟨frame_drawRnd_setV s x _,
      fun r hr => s.drawRnd.2.getV_setV_of_ne _ r _ hr, id⟩⟩
  | seByte | sneByte | seReg | sneReg =>
    refine ⟨_, rfl, ?_⟩
    rw [skipIf_eq_setPc]
    exact .completes ⟨frame_setPc s _, fun _ _ => rfl, id⟩
  | jp | jpOffset => exact ⟨_, rfl, .completes ⟨frame_setPc s _, fun _ _ => rfl, id⟩⟩
  | call nnn =>
    by_cases hsp : s.sp.val < Config.stackDepth
    · exact ⟨_, exec_call_of_lt nnn s hsp, .completes ⟨frame_setStack_setPc s _ _ _, fun _ _ => rfl, id⟩⟩
    · exact ⟨_, exec_call_of_full nnn s (by omega), .halts (by decide) nofun⟩
  | ret =>
    by_cases hsp : 0 < s.sp.val
    · exact ⟨_, exec_ret_of_pos s hsp, .completes ⟨frame_setStack_setPc s _ _ _, fun _ _ => rfl, id⟩⟩
    · exact ⟨_, exec_ret_of_zero s (by omega), .halts (by decide) nofun⟩
  | ldI | ldF => exact ⟨_, rfl, .completes ⟨frame_setI s _, fun _ _ => rfl, id⟩⟩
  | addI x =>
    by_cases hov : s.addIOverflows x
    · exact ⟨_, exec_addI_of_overflows hov, .completes ⟨frame_setI_setFlag s _ _,
        fun r hr => State.getV_setFlag_of_ne _ _ hr, id⟩⟩
    · exact ⟨_, exec_addI_of_not_overflows hov, .completes ⟨(frame_setI s _).mono (by simp [writesOf]),
        fun _ _ => rfl, id⟩⟩
  | ldDtVx => exact ⟨_, rfl, .completes ⟨frame_setDt s _, fun _ _ => rfl, id⟩⟩
  | ldStVx => exact ⟨_, rfl, .completes ⟨frame_setSt s _, fun _ _ => rfl, id⟩⟩
  | cls => exact ⟨_, rfl, .completes ⟨frame_setFb s _, fun _ _ => rfl, id⟩⟩
  | drw x y n =>
    by_cases hr : s.reaches s.i.toNat (s.spriteRows y n)
    · exact ⟨_, exec_drw_of_reaches x y n s hr, .completes ⟨frame_setFb_setFlag s _ _,
        fun r hr => State.getV_setFlag_of_ne _ _ hr, id⟩⟩
    · exact ⟨_, exec_drw_of_not_reaches x y n s hr, execEnds_of_not_reaches hr⟩
  | ldB x =>
    by_cases hr : s.reaches s.i.toNat 3
    · exact ⟨_, exec_ldB_of_reaches x s hr, .completes ⟨frame_setMem s _, fun _ _ => rfl,
        wf_memoryAfter _ _ _ _⟩⟩
    · exact ⟨_, exec_ldB_of_not_reaches x s hr, execEnds_of_not_reaches hr⟩
  | storeRegs x =>
    by_cases hr : s.reaches s.i.toNat (x.toNat + 1)
    · exact ⟨_, exec_storeRegs_of_reaches x s hr, .completes ⟨frame_setMem_bumpI s _ x,
        fun _ _ => State.getV_bumpI _ _ _, fun hwf => by
          rw [State.bumpI_mem]
          exact wf_memoryAfter _ _ _ _ hwf⟩⟩
    · exact ⟨_, exec_storeRegs_of_not_reaches x s hr, execEnds_of_not_reaches hr⟩
  | loadRegs x =>
    by_cases hr : s.reaches s.i.toNat (x.toNat + 1)
    · exact ⟨_, exec_loadRegs_of_reaches x s hr, .completes ⟨frame_loadBlock_bumpI s _ x,
        fun r hr => (State.getV_bumpI _ _ _).trans (s.getV_loadBlock_of_lt (Nat.lt_of_not_le hr)),
        fun hwf => by rwa [State.bumpI_mem, State.loadBlock_mem]⟩⟩
    · exact ⟨_, exec_loadRegs_of_not_reaches x s hr, execEnds_of_not_reaches hr⟩
  | sysHalt | malformedSe | unmatched8 | unmatched9 | unmatchedA | unmatchedB | unmatchedC | unmatchedD
  | unmatchedF | malformedSne | familyE | familyF => exact ⟨_, rfl, .halts (by decide) nofun⟩

theorem exec_ends {i : Instr} {s t : State} (h : exec i s = .next t) : ExecEnds i s t := by
  obtain ⟨u, hu, hends⟩ := exec_spec i s
  rw [hu] at h
  cases h
  exact hends

/-- Settles O12, by how the instruction ends. -/
theorem instructionsWriteOnlyTheirParts : Obligations.InstructionsWriteOnlyTheirParts := by
  intro i s t h
  cases exec_ends h with
  | completes hdone => exact .inl hdone.frame
  | halts hne => exact .inr ⟨_, hne, rfl⟩

/-- Settles O13, by how the instruction ends: a halt writes no register at all. -/
theorem instructionsWriteOnlyTheirRegisters : Obligations.InstructionsWriteOnlyTheirRegisters := by
  intro i s t r h hr
  cases exec_ends h with
  | completes hdone => exact hdone.getV r hr
  | halts => rfl

/-- Settles O11: each of the rows has a halt cause, and a row with one halts with it. -/
theorem haltingRowsHalt : Obligations.HaltingRowsHalt := by
  intro s nnn x y n kk
  refine ⟨?_, ?_, ?_, ?_, ?_, ?_, ?_, ?_, ?_, ?_, ?_, ?_⟩
  all_goals exact haltsWith_of_exec (exec_of_haltCause rfl s)

end Sys2Proof.Machine

/-! ### What instructions neither read nor write: memory, the framebuffer, DT and the host's inputs -/

namespace Sys2Proof.Machine

/-- What an instruction must be spared, asked for only of the instructions that use it. -/
theorem Spares.of_uses {f : State → State} {i : Instr}
    (hmem : touchesMemory i = true → SparesMemory f)
    (hfb : (i = .cls ∨ ∃ x y n, i = .drw x y n) → SparesFb f)
    (hreadDt : (∃ x, i = .ldVxDt x) → ∀ s, (f s).dt = s.dt)
    (hwriteDt : (∃ x, i = .ldDtVx x) → ∀ s b, (f s).setDt b = f (s.setDt b))
    (hwriteSt : ∀ s b, (f s).setSt b = f (s.setSt b))
    (hrnd : (∃ x kk, i = .rnd x kk) → ∀ s, (f s).drawRnd = (s.drawRnd.1, f s.drawRnd.2)) : Spares f i := by
  cases i with
  | cls => exact hfb (.inl rfl)
  | drw x y n => exact ⟨hmem rfl, hfb (.inr ⟨x, y, n, rfl⟩)⟩
  | ldB | storeRegs | loadRegs => exact hmem rfl
  | ldVxDt x => exact hreadDt ⟨x, rfl⟩
  | ldDtVx x => exact hwriteDt ⟨x, rfl⟩
  | ldStVx x => exact hwriteSt
  | rnd x kk => exact hrnd ⟨x, kk, rfl⟩
  | _ => trivial

theorem sparesCore_setMem (m : List Host.Cell) : SparesCore (·.setMem m) := by
  constructor <;> intros <;> rfl

theorem spares_setMem (m : List Host.Cell) {i : Instr} (hi : touchesMemory i = false) :
    Spares (·.setMem m) i :=
  .of_uses (fun h => absurd h (by simp [hi])) (fun _ => by constructor <;> intros <;> rfl)
    (fun _ _ => rfl) (fun _ _ _ => rfl) (fun _ _ => rfl) fun _ _ => rfl

/-- Settles O14: a change of memory spares every instruction that does not access it. -/
theorem onlyMemoryInstructionsTouchMemory : Obligations.OnlyMemoryInstructionsTouchMemory :=
  fun i s m hi => exec_comm (sparesCore_setMem m) i (spares_setMem m hi) s

theorem sparesCore_setFb (g : Framebuffer) : SparesCore (·.setFb g) := by
  constructor <;> intros <;> rfl

theorem spares_setFb (g : Framebuffer) {i : Instr} (hcls : i ≠ .cls) (hdrw : ∀ x y n, i ≠ .drw x y n) :
    Spares (·.setFb g) i :=
  .of_uses (fun _ => by constructor <;> intros <;> rfl)
    (fun h => absurd h (not_or.2 ⟨hcls, fun ⟨x, y, n, h⟩ => hdrw x y n h⟩))
    (fun _ _ => rfl) (fun _ _ _ => rfl) (fun _ _ => rfl) fun _ _ => rfl

theorem sparesCore_setDt (b : Byte) : SparesCore (·.setDt b) := by
  constructor <;> intros <;> rfl

theorem spares_setDt (b : Byte) {i : Instr} (hread : ∀ x, i ≠ .ldVxDt x) (hwrite : ∀ x, i ≠ .ldDtVx x) :
    Spares (·.setDt b) i :=
  .of_uses (fun _ => by constructor <;> intros <;> rfl) (fun _ => by constructor <;> intros <;> rfl)
    (fun ⟨x, h⟩ => absurd h (hread x)) (fun ⟨x, h⟩ => absurd h (hwrite x)) (fun _ _ => rfl) fun _ _ => rfl

/-- Settles O15: a change of the framebuffer or of DT spares every instruction but its own. -/
theorem devicesReachedOnlyByTheirInstructions : Obligations.DevicesReachedOnlyByTheirInstructions :=
  ⟨fun i s g hcls hdrw => exec_comm (sparesCore_setFb g) i (spares_setFb g hcls hdrw) s,
    fun i s b hread hwrite => exec_comm (sparesCore_setDt b) i (spares_setDt b hread hwrite) s⟩

/-- RUN_EN, the timer clock's strobe and its counter, and ROM: the inputs that no instruction uses (R217). -/
def State.setInputs (en strobe : Bool) (n : Nat) (rom : Option (List Byte)) (s : State) : State :=
  { s with runEn := en, tickStrobe := strobe, tickDraws := n, launch := { s.launch with rom := rom } }

theorem sparesCore_setInputs (en strobe : Bool) (n : Nat) (rom : Option (List Byte)) :
    SparesCore (State.setInputs en strobe n rom) := by
  constructor <;> intros <;> rfl

theorem spares_setInputs (en strobe : Bool) (n : Nat) (rom : Option (List Byte)) (i : Instr) :
    Spares (State.setInputs en strobe n rom) i :=
  .of_uses (fun _ => by constructor <;> intros <;> rfl) (fun _ => by constructor <;> intros <;> rfl)
    (fun _ _ => rfl) (fun _ _ _ => rfl) (fun _ _ => rfl) fun _ _ => rfl

/-- The counter of the random draws. -/
def State.setRndDraws (n : Nat) (s : State) : State := { s with rndDraws := n }

theorem sparesCore_setRndDraws (n : Nat) : SparesCore (State.setRndDraws n) := by
  constructor <;> intros <;> rfl

theorem spares_setRndDraws (n : Nat) {i : Instr} (hi : ∀ x kk, i ≠ .rnd x kk) :
    Spares (State.setRndDraws n) i :=
  .of_uses (fun _ => by constructor <;> intros <;> rfl) (fun _ => by constructor <;> intros <;> rfl)
    (fun _ _ => rfl) (fun _ _ _ => rfl) (fun _ _ => rfl) fun ⟨x, kk, h⟩ => absurd h (hi x kk)

end Sys2Proof.Machine

/-! ### Steps (40_fsm.md)

`step_stepped` says once what a step does; what steps keep follows from it and from how an instruction ends. -/

namespace Sys2Proof.Machine

theorem frame_endCycle (s : State) : Frame [.fsm, .tickStrobe, .tickDraws] s s.endCycle := by
  by_cases h : s.fsm = .halted
  · rw [endCycle_of_halted s h]
    exact .refl _ s
  rw [endCycle_of_ne s h]
  intro p hp
  cases p with
  | fsm | tickStrobe | tickDraws => simp at hp
  | v | mem => exact fun _ => rfl
  | stack => exact ⟨rfl, rfl⟩
  | _ => rfl

theorem execute_of_exec {s t : State} (h : exec (decode s.ir) s = .next t) : s.execute = .next t.endCycle := by
  simp [State.execute, h]

theorem step_of_execute {s : State} (hrun : s.runEn = true) (hfsm : s.fsm = .execute) : step s = s.execute := by
  simp [step, State.advance, hrun, hfsm]

/-- Settles O9: the EXECUTE step is the handler and the end of the cycle, and the inputs are spared. -/
theorem executeRunsOneHandler : Obligations.ExecuteRunsOneHandler := by
  refine ⟨fun s hrun hfsm => ?_, fun w c s hc => exec_of_haltCause hc s, fun i s en strobe n rom =>
    exec_comm (sparesCore_setInputs en strobe n rom) i (spares_setInputs en strobe n rom i) s,
    fun i s n hi => exec_comm (sparesCore_setRndDraws n) i (spares_setRndDraws n hi) s⟩
  obtain ⟨t, ht, -⟩ := exec_spec (decode s.ir) s
  have hstep := (step_of_execute hrun hfsm).trans (execute_of_exec ht)
  refine ⟨t, ht, fun h => ?_, fun h => ⟨_, hstep, ?_, frame_endCycle t⟩⟩
  · rw [hstep, endCycle_of_halted t h]
  · rw [endCycle_of_ne t h]; rfl

/-- The state between FETCH and EXECUTE (R92). -/
def State.latch (s : State) (w : Word) : State :=
  { s with ir := w, pc := s.pc + 2, ticked := false, fsm := .execute }

/-- s is in EXECUTE, or u is what FETCH makes of s. -/
def State.Latched (s u : State) : Prop :=
  (s.fsm = .execute ∧ u = s) ∨ s.fsm = .fetch ∧ ∃ w, u = s.latch w

/-- What a step does to the state s (R90 to R95, R212). -/
inductive Stepped (s : State) : State → Prop
  | stands (h : s.runEn = false ∨ s.fsm = .halted) : Stepped s s
  | ticks (h : s.tickDue = true) : Stepped s s.tick
  | fetchFaults (hfsm : s.fsm = .fetch) (hpolicy : s.launch.addrPolicy = .fault) :
    Stepped s (s.halt .addressFault)
  | executes {u t : State} (hlatched : s.Latched u) (hexec : exec (decode u.ir) u = .next t) :
    Stepped s t.endCycle

theorem addrPolicy_of_memRead_eq_none {s : State} {a : Nat} (h : s.memRead a = none) :
    s.launch.addrPolicy = .fault := by
  refine addrPolicy_of_not_reaches (a := a) (n := 1) fun hr => ?_
  rw [s.memRead_of_reaches a hr] at h
  cases h

/-- A cycle whose FETCH has both bytes is the EXECUTE step of the fetched state (R92). -/
theorem cycle_of_latch {s : State} {w : Word} (h : s.fetch = s.latch w) : s.cycle = (s.latch w).execute := by
  rw [State.cycle, h]
  rfl

/-- A cycle whose FETCH faults is that halt (R92). -/
theorem cycle_of_fault {s : State} {c : HaltCause} (h : s.fetch = s.halt c) : s.cycle = .next (s.halt c) := by
  rw [State.cycle, h]
  rfl

theorem step_stepped (s : State) : ∃ t, step s = .next t ∧ Stepped s t := by
  rcases step_cases s with ⟨hrun, h⟩ | ⟨-, hfsm, h⟩ | ⟨-, hfsm, h⟩ | ⟨htick, h⟩ | ⟨-, hfsm, -, h⟩
  · exact ⟨s, h, .stands (.inl hrun)⟩
  · exact ⟨s, h, .stands (.inr hfsm)⟩
  · obtain ⟨t, ht, -⟩ := exec_spec (decode s.ir) s
    exact ⟨_, h.trans (execute_of_exec ht), .executes (.inl ⟨hfsm, rfl⟩) ht⟩
  · exact ⟨_, h, .ticks htick⟩
  · rcases fetch_cases s with ⟨hi, lo, -, -, hfetch⟩ | ⟨hnone, hfetch⟩
    · obtain ⟨t, ht, -⟩ := exec_spec (decode (s.latch (wordOfBytes hi lo)).ir) (s.latch (wordOfBytes hi lo))
      exact ⟨_, (h.trans (cycle_of_latch hfetch)).trans (execute_of_exec ht),
        .executes (.inr ⟨hfsm, _, rfl⟩) ht⟩
    · exact ⟨_, h.trans (cycle_of_fault hfetch), .fetchFaults hfsm
        (hnone.elim addrPolicy_of_memRead_eq_none addrPolicy_of_memRead_eq_none)⟩

theorem stepped_of_step {s t : State} (h : step s = .next t) : Stepped s t := by
  obtain ⟨u, hu, hstepped⟩ := step_stepped s
  rw [hu] at h
  cases h
  exact hstepped

/-- Settles O10: what a step does always gives a next state. -/
theorem everyStepAnswersANextState : Obligations.EveryStepAnswersANextState :=
  ⟨fun i s => (exec_spec i s).imp fun _ h => h.1, fun s => (step_stepped s).imp fun _ h => h.1⟩

end Sys2Proof.Machine

/-! #### What a step keeps -/

namespace Sys2Proof.Machine

/-- The parts that some instruction writes when it completes. -/
abbrev execWrites : List Part := [.v, .pc, .i, .stack, .dt, .st, .fb, .mem, .rndDraws]

/-- The parts that a halt writes (R94). -/
abbrev haltWrites : List Part := [.fsm, .haltCause]

/-- The parts that FETCH writes (R92). -/
abbrev latchWrites : List Part := [.pc, .ir, .ticked, .fsm]

/-- The parts that the end of a cycle writes (R93; log entry 6). -/
abbrev endCycleWrites : List Part := [.fsm, .tickStrobe, .tickDraws]

theorem writesOf_subset (i : Instr) : writesOf i ⊆ execWrites := by
  cases i <;> simp [writesOf, execWrites]

theorem exec_frame {i : Instr} {s t : State} (h : exec i s = .next t) :
    Frame (execWrites ++ haltWrites) s t := by
  cases exec_ends h with
  | completes hdone =>
    exact hdone.frame.mono fun p hp => List.mem_append_left _ (writesOf_subset i hp)
  | halts => exact (frame_halt s _).mono (List.subset_append_right _ _)

theorem frame_latch (s : State) (w : Word) : Frame latchWrites s (s.latch w) := by
  intro p hp
  cases p with
  | pc | ir | ticked | fsm => simp at hp
  | v | mem => exact fun _ => rfl
  | stack => exact ⟨rfl, rfl⟩
  | _ => rfl

theorem State.Latched.frame {s u : State} (h : s.Latched u) : Frame latchWrites s u := by
  rcases h with ⟨-, rfl⟩ | ⟨-, w, rfl⟩
  · exact .refl _ _
  · exact frame_latch s w

/-- From the boundary to the end of the cycle. -/
theorem frame_executes {s u t : State} (hlatched : s.Latched u) (hexec : exec (decode u.ir) u = .next t) :
    Frame (latchWrites ++ (execWrites ++ haltWrites) ++ endCycleWrites) s t.endCycle :=
  (hlatched.frame.trans (exec_frame hexec)).trans (frame_endCycle t)

/-- The strobe is sampled at the end of the cycle and not before. -/
theorem tickDraws_of_executes {s u t : State} (hlatched : s.Latched u) (hexec : exec (decode u.ir) u = .next t) :
    t.tickDraws = s.tickDraws :=
  (hlatched.frame.trans (exec_frame hexec)) .tickDraws (by decide)

/-- Settles O25: no part of a step writes the launch inputs or RUN_EN. -/
theorem stepKeepsTheLaunchInputs : Obligations.StepKeepsTheLaunchInputs := by
  intro s t h
  cases stepped_of_step h with
  | stands | ticks | fetchFaults => exact ⟨rfl, rfl⟩
  | executes hlatched hexec =>
    have hframe := frame_executes hlatched hexec
    exact ⟨hframe .launch (by decide), hframe .runEn (by decide)⟩

/-- Settles O26: a fetch and an instruction raise ADDRESS_FAULT under the other policy only. -/
theorem wrapNeverRaisesAddressFault : Obligations.WrapNeverRaisesAddressFault := by
  intro s t hwrap hcause h
  cases stepped_of_step h with
  | stands | ticks => exact hcause
  | fetchFaults _ hpolicy => rw [hwrap] at hpolicy; cases hpolicy
  | @executes u t hlatched hexec =>
    have hlaunch : u.launch = s.launch := hlatched.frame .launch (by decide)
    have hu : u.haltCause = s.haltCause := hlatched.frame .haltCause (by decide)
    have hend : t.endCycle.haltCause = t.haltCause := frame_endCycle t .haltCause (by decide)
    rw [hend]
    cases exec_ends hexec with
    | completes hdone =>
      have ht : t.haltCause = u.haltCause :=
        hdone.frame .haltCause fun hin => absurd (writesOf_subset _ hin) (by decide)
      rwa [ht, hu]
    | halts _ hpolicy =>
      intro hc
      have hfault := hpolicy hc
      rw [hlaunch, hwrap] at hfault
      cases hfault

/-! #### The invariant -/

theorem State.inv_iff (s : State) : s.inv = true ↔
    Memory.wf s.launch.fontTable s.mem = true ∧ (s.fsm = .halted ↔ s.haltCause ≠ .none) ∧
      s.fsm ≠ .execute := by
  simp only [State.inv, Bool.and_eq_true, beq_iff_eq, decide_eq_true_eq, decide_eq_decide, and_assoc]

theorem inv_halt {s : State} {c : HaltCause} (hwf : Memory.wf s.launch.fontTable s.mem = true)
    (hc : c ≠ .none) : (s.halt c).inv = true :=
  (State.inv_iff _).2 ⟨hwf, iff_of_true rfl hc, nofun⟩

theorem inv_of_fetch {s : State} (hwf : Memory.wf s.launch.fontTable s.mem = true) (hfsm : s.fsm = .fetch)
    (hcause : s.haltCause = .none) : s.inv = true := by
  simp [State.inv_iff, hwf, hfsm, hcause]

/-- A cycle that begins at a boundary with the invariant ends with it. -/
theorem inv_endCycle {i : Instr} {s t : State} {w : Word} (hinv : s.inv = true) (hfsm : s.fsm = .fetch)
    (hexec : exec i (s.latch w) = .next t) : t.endCycle.inv = true := by
  obtain ⟨hwf, hhalted, -⟩ := s.inv_iff.1 hinv
  have hcause : s.haltCause = .none := by simpa [hfsm] using hhalted
  cases exec_ends hexec with
  | completes hdone =>
    have hkeeps : ∀ p, p ∉ execWrites → p.same (s.latch w) t :=
      fun p hp => hdone.frame p fun hin => hp (writesOf_subset i hin)
    have hlaunch : t.launch = s.launch := hkeeps .launch (by decide)
    have htfsm : t.fsm = .execute := hkeeps .fsm (by decide)
    have htcause : t.haltCause = s.haltCause := hkeeps .haltCause (by decide)
    rw [endCycle_of_ne t (by rw [htfsm]; decide)]
    refine inv_of_fetch ?_ rfl (htcause.trans hcause)
    change Memory.wf t.launch.fontTable t.mem = true
    rw [hlaunch]
    exact hdone.wf hwf
  | halts hne =>
    rw [endCycle_of_halted _ rfl]
    exact inv_halt hwf hne

/-- Settles O17, by what the step does. -/
theorem stepKeepsTheInvariant : Obligations.StepKeepsTheInvariant := by
  intro s t hinv h
  obtain ⟨hwf, hhalted, hne⟩ := s.inv_iff.1 hinv
  cases stepped_of_step h with
  | stands => exact hinv
  | ticks => exact (State.inv_iff _).2 ⟨hwf, hhalted, hne⟩
  | fetchFaults => exact inv_halt hwf (by decide)
  | executes hlatched hexec =>
    rcases hlatched with ⟨hexecute, -⟩ | ⟨hfsm, w, rfl⟩
    · exact absurd hexecute hne
    · exact inv_endCycle hinv hfsm hexec

/-! #### One step from a given state -/

theorem step_of_fetch {s : State} (hrun : s.runEn = true) (hfsm : s.fsm = .fetch) (htick : s.tickDue = false) :
    step s = s.cycle := by
  simp [step, State.advance, hrun, hfsm, htick]

theorem memRead_of_ea {s : State} {a p : Nat} (h : s.ea a = some p) : s.memRead a = some (s.byteAt p) := by
  rw [State.memRead, h, Option.map_some]

theorem fetch_of_ea {s : State} {a b : Nat} (ha : s.ea s.pc.toNat = some a) (hb : s.ea (s.pc.toNat + 1) = some b) :
    s.fetch = s.latch (s.byteAt a ++ s.byteAt b) := by
  rw [State.fetch, memRead_of_ea ha, memRead_of_ea hb]
  rfl

/-- The end of a cycle by whether the instruction halted (R93). -/
theorem endCycle_eq_ite (t : State) : t.endCycle = if t.fsm = .halted then t else
    { t with fsm := .fetch, tickStrobe := Config.tick t.tickDraws, tickDraws := t.tickDraws + 1 } := by
  split_ifs with h
  · exact endCycle_of_halted t h
  · exact endCycle_of_ne t h

/-- Settles O5: the cycle is FETCH, which latches the word, and then the instruction. -/
theorem stepRunsTheDecodedInstruction : Obligations.StepRunsTheDecodedInstruction := by
  intro s i a b hrun hfsm htick ha hb hi _
  obtain ⟨t, ht, -⟩ := exec_spec i (s.latch (s.byteAt a ++ s.byteAt b))
  refine ⟨t, ht, ?_⟩
  have hexec : exec (decode (s.latch (s.byteAt a ++ s.byteAt b)).ir) (s.latch (s.byteAt a ++ s.byteAt b)) =
      .next t := by
    rw [show decode (s.latch (s.byteAt a ++ s.byteAt b)).ir = i from hi, ht]
  rw [step_of_fetch hrun hfsm htick, cycle_of_latch (fetch_of_ea ha hb), execute_of_exec hexec,
    endCycle_eq_ite]

/-- Settles O6: the byte at PC + 1 cannot be reached. -/
theorem fetchPastMemoryFaults : Obligations.FetchPastMemoryFaults := by
  intro s hrun hfsm htick hpolicy hpc
  have hnone : s.memRead (s.pc.toNat + 1) = none :=
    s.memRead_of_not_reaches _ (by simp [State.reaches, hpolicy]; omega)
  rcases fetch_cases s with ⟨hi, lo, -, hlo, -⟩ | ⟨-, hfetch⟩
  · rw [hnone] at hlo; cases hlo
  · rw [step_of_fetch hrun hfsm htick, cycle_of_fault hfetch]
    rfl

/-- Settles O7: these are the two states in which no agent moves. -/
theorem haltedOrHeldCoreStands : Obligations.HaltedOrHeldCoreStands := by
  rintro s (hfsm | hrun)
  · cases hrun : s.runEn <;> simp [step, State.advance, hfsm, hrun]
  · simp [step, State.advance, hrun]

theorem frame_tick (s : State) : Frame [.dt, .st, .ticked] s s.tick := by
  intro p hp
  cases p with
  | dt | st | ticked => simp at hp
  | v | mem => exact fun _ => rfl
  | stack => exact ⟨rfl, rfl⟩
  | _ => rfl

/-- A tick is taken once at a boundary. -/
theorem tickDue_tick (s : State) : s.tick.tickDue = false := by
  simp [State.tickDue]

/-- Settles O8: the step is the tick, which counts both timers down. -/
theorem tickCountsBothTimersDown : Obligations.TickCountsBothTimersDown := fun s =>
  ⟨s.tickDue_iff, fun h => ⟨s.tick, step_of_tickDue s h, toNat_countDown s.dt, toNat_countDown s.st, rfl,
    tickDue_tick s, frame_tick s⟩⟩

end Sys2Proof.Machine

/-! ### Reset and the host's moves (70_reset_and_hazards.md) -/

namespace Sys2Proof.Machine

theorem inv_afterReset (l : Launch) : (State.afterReset l).inv = true := rfl

/-- Settles O16: nothing is in memory, and the core is at a boundary with no halt. -/
theorem resetMeetsTheInvariant : Obligations.ResetMeetsTheInvariant := ⟨rfl, inv_afterReset⟩

/-- Before anything is written, the font's place reads as the font (R57, R63). -/
theorem unlisted_font (font : Vector Byte Config.fontSize) {k : Nat} (h : k < 80) :
    Memory.unlisted font (0x050 + k) = font[k] := by
  simp [Memory.unlisted, h]

theorem unlisted_of_not_font (font : Vector Byte Config.fontSize) {a : Nat} (h : a < 0x050 ∨ 0x0A0 ≤ a) :
    Memory.unlisted font a = 0 :=
  dif_neg (by simp only [Config.fontBase, Config.fontSize]; omega)

/-- Settles O19: memory reads as the font and zeros, and every other part is written out in the reset state. -/
theorem resetValues : Obligations.ResetValues := by
  intro l
  refine ⟨rfl, fun r => ?_, rfl, rfl, fun k h => ?_, rfl, rfl, fun r c => cell_blank r c,
    fun k h => unlisted_font l.fontTable h, fun a h => unlisted_of_not_font l.fontTable h,
    rfl, rfl, rfl, rfl, rfl⟩
  · exact Vector.getElem_replicate _
  · exact Vector.getElem_replicate _

theorem frame_resetTo (s : State) (l : Launch) :
    Frame [.tickStrobe, .tickDraws, .rndDraws] (State.afterReset l) (s.resetTo l) := by
  intro p hp
  cases p with
  | tickStrobe | tickDraws | rndDraws => simp at hp
  | v | mem => exact fun _ => rfl
  | stack => exact ⟨rfl, rfl⟩
  | _ => rfl

/-- Settles O21: a reset is the reset state with the free inputs going on. -/
theorem resetPutsEveryPartAtItsResetValue : Obligations.ResetPutsEveryPartAtItsResetValue := fun s l =>
  ⟨frame_resetTo s l, rfl, rfl, rfl⟩

/-! #### The loader -/

/-- The loader with a ROM that fits (R231). -/
theorem loadRom_of_le {s : State} {rom : List Byte} (h : s.launch.rom = some rom) (hlen : rom.length ≤ 3584) :
    s.loadRom = .next (s.setMem (Memory.writeList s.launch.fontTable s.mem Config.progBase rom)) := by
  simp [State.loadRom, h, hlen]

theorem loadRom_of_lt {s : State} {rom : List Byte} (h : s.launch.rom = some rom) (hlen : 3584 < rom.length) :
    s.loadRom = .refused .loadFailure := by
  simp [State.loadRom, h, hlen]

/-- A load that goes on has changed memory alone, and kept it canonical. -/
theorem loadRom_next {s t : State} (h : s.loadRom = .next t) (hwf : Memory.wf s.launch.fontTable s.mem = true) :
    ∃ m, t = s.setMem m ∧ Memory.wf s.launch.fontTable m = true := by
  cases hrom : s.launch.rom with
  | none =>
    simp only [State.loadRom, hrom] at h
    cases h
    exact ⟨s.mem, rfl, hwf⟩
  | some rom =>
    by_cases hlen : rom.length ≤ 3584
    · rw [loadRom_of_le hrom hlen] at h
      cases h
      exact ⟨_, rfl, Memory.wf_writeList _ rom _ _ hwf (by simp only [Config.progBase, Config.memSize]; omega)⟩
    · rw [loadRom_of_lt hrom (by omega)] at h
      cases h

/-- Below 4096 no address is reduced, so copying a list is storing it. -/
theorem writeList_eq_memoryAfter (font : Vector Byte Config.fontSize) (bs : List Byte) (m : List Host.Cell)
    (a : Nat) (h : a + bs.length ≤ Config.memSize) : Memory.writeList font m a bs = memoryAfter font m a bs := by
  induction bs generalizing m a with
  | nil => rfl
  | cons b bs ih =>
    simp only [List.length_cons] at h
    rw [Memory.writeList, memoryAfter, ih _ _ (by omega), Nat.mod_eq_of_lt (by omega)]

/-- Settles O20, by the length of the ROM: one that fits is stored in the memory after reset. -/
theorem romIsLoadedVerbatim : Obligations.RomIsLoadedVerbatim := by
  intro s l rom hrom
  refine ⟨fun hlen => ?_, fun hlen => loadRom_of_lt (s := s.resetTo l) hrom hlen⟩
  have hfits : 0x200 + rom.length ≤ 4096 := by omega
  have hread := fun p => read_memoryAfter l.fontTable rom [] Config.progBase p rfl (hlen.trans (by decide))
  rw [← writeList_eq_memoryAfter _ _ _ _ hfits] at hread
  refine ⟨_, loadRom_of_le (s := s.resetTo l) hrom hlen, fun k hk => ?_, fun a ha => ?_, frame_setMem _ _⟩
  · exact (hread _).1 k hk (Nat.mod_eq_of_lt (a := 0x200 + k) (b := 4096) (by omega)).symm
  · exact (hread a).2 fun k hk => by
      rw [Nat.mod_eq_of_lt (a := 0x200 + k) (b := 4096) (by omega)]
      omega

/-! #### The host's moves -/

/-- RUN_EN is changed at a boundary, and nothing else with it (R91). -/
theorem setRunEn_next {s t : State} {b : Bool} (h : s.setRunEn b = .next t) :
    t = { s with runEn := b } := by
  unfold State.setRunEn at h
  split at h
  · cases h
  · cases h
  · split_ifs at h with hb hrom
    · cases h; rw [hb]
    · cases h; rw [eq_false_of_ne_true hb]

/-- A move of the host is a reset with a load, or a change of RUN_EN (R217). -/
theorem hostMove_cases {s t : State} {m : HostMove} (h : s.hostMove m = .next t) :
    (∃ l, (s.resetTo l).loadRom = .next t) ∨ ∃ b, t = { s with runEn := b } := by
  cases m with
  | launch l => exact .inl ⟨l, h⟩
  | rst => exact .inl ⟨s.launch, h⟩
  | setRunEn b => exact .inr ⟨b, setRunEn_next h⟩

/-- The state a load after a reset ends in. -/
theorem loadRom_resetTo_next {s t : State} {l : Launch} (h : (s.resetTo l).loadRom = .next t) :
    ∃ m, t = (s.resetTo l).setMem m ∧ Memory.wf l.fontTable m = true :=
  loadRom_next h rfl

/-- Settles O18: a reset and a load keep memory canonical, and RUN_EN is no part of the invariant. -/
theorem hostMovesKeepTheInvariant : Obligations.HostMovesKeepTheInvariant := by
  intro s t m hinv h
  rcases hostMove_cases h with ⟨l, hload⟩ | ⟨b, rfl⟩
  · obtain ⟨m, rfl, hwf⟩ := loadRom_resetTo_next hload
    exact inv_of_fetch hwf rfl rfl
  · exact hinv

/-! #### The free draws -/

theorem rndDraws_le_of_exec {i : Instr} {s t : State} (h : exec i s = .next t) : s.rndDraws ≤ t.rndDraws := by
  cases i with
  | rnd x kk => cases h; exact Nat.le_succ _
  | _ =>
    cases exec_ends h with
    | completes hdone => exact (hdone.frame .rndDraws (by simp [writesOf])).ge
    | halts => exact le_rfl

theorem tickDraws_le_endCycle (s : State) : s.tickDraws ≤ s.endCycle.tickDraws := by
  by_cases h : s.fsm = .halted
  · rw [endCycle_of_halted s h]
  · rw [endCycle_of_ne s h]
    exact Nat.le_succ _

/-- Settles O22: only CXKK and the end of a cycle or a reset write the counters, and they count on. -/
theorem freeDrawsAreNeverMadeTwice : Obligations.FreeDrawsAreNeverMadeTwice := by
  refine ⟨fun s t h => ?_, fun s t m h => ?_, fun s x kk => ⟨_, rfl, Nat.lt_succ_self _⟩⟩
  · cases stepped_of_step h with
    | stands | ticks | fetchFaults => exact ⟨le_rfl, le_rfl⟩
    | @executes u t hlatched hexec =>
      have hrnd : u.rndDraws = s.rndDraws := hlatched.frame .rndDraws (by decide)
      have hend : t.endCycle.rndDraws = t.rndDraws := frame_endCycle t .rndDraws (by decide)
      have htick := tickDraws_of_executes hlatched hexec
      exact ⟨by rw [hend, ← hrnd]; exact rndDraws_le_of_exec hexec, htick ▸ tickDraws_le_endCycle t⟩
  · rcases hostMove_cases h with ⟨l, hload⟩ | ⟨b, rfl⟩
    · obtain ⟨m, rfl, -⟩ := loadRom_resetTo_next hload
      exact ⟨le_rfl, Nat.le_succ _⟩
    · exact ⟨le_rfl, le_rfl⟩

end Sys2Proof.Machine

/-! ### Endless runs (60_exceptions.md, the timer agent)

In an endless run every step but a tick is a cycle, and each cycle samples the strobe at the next counter. So if no
tick came from some step on, the counters would run through all samples after it, and one of those is up. -/

namespace Sys2Proof.Machine

/-- The boundary t after a cycle from s, as the timer agent sees it. -/
structure Cycled (s t : State) : Prop where
  fsm : t.fsm = .fetch
  ticked : s.fsm = .fetch → t.ticked = false
  tickStrobe : t.tickStrobe = Config.tick s.tickDraws
  tickDraws : t.tickDraws = s.tickDraws + 1

/-- A step of a running core that neither halts nor is a tick is a cycle. -/
theorem cycled_of_step {s t : State} (h : step s = .next t) (hrun : s.runEn = true) (hs : s.fsm ≠ .halted)
    (ht : t.fsm ≠ .halted) (htick : s.tickDue = false) : Cycled s t := by
  cases stepped_of_step h with
  | stands hstands =>
    rcases hstands with hrun' | hhalted
    · rw [hrun] at hrun'; cases hrun'
    · exact absurd hhalted hs
  | ticks hdue => rw [htick] at hdue; cases hdue
  | fetchFaults => exact absurd rfl ht
  | @executes u t hlatched hexec =>
    have hgoes : t.fsm ≠ .halted := fun hhalted => ht (by rw [endCycle_of_halted t hhalted, hhalted])
    have hdraws := tickDraws_of_executes hlatched hexec
    rw [endCycle_of_ne t hgoes]
    refine ⟨rfl, fun hfsm => ?_, congrArg Config.tick hdraws, congrArg Nat.succ hdraws⟩
    rcases hlatched with ⟨hexecute, -⟩ | ⟨-, w, rfl⟩
    · rw [hfsm] at hexecute; cases hexecute
    · exact exec_frame hexec .ticked (by decide)

section EndlessRun

variable {r : Nat → State} (hr : EndlessRun r)
include hr

theorem EndlessRun.step_eq (n : Nat) : step (r n) = .next (r (n + 1)) := (hr n).1

theorem EndlessRun.runEn (n : Nat) : (r n).runEn = true := (hr n).2.1

theorem EndlessRun.fsm_ne_halted (n : Nat) : (r n).fsm ≠ .halted := (hr n).2.2

theorem EndlessRun.cycled {n : Nat} (htick : (r n).tickDue = false) : Cycled (r n) (r (n + 1)) :=
  cycled_of_step (hr.step_eq n) (hr.runEn n) (hr.fsm_ne_halted n) (hr.fsm_ne_halted (n + 1)) htick

theorem EndlessRun.tick {n : Nat} (htick : (r n).tickDue = true) : r (n + 1) = (r n).tick := by
  have hstep := hr.step_eq n
  rw [step_of_tickDue _ htick] at hstep
  exact (Host.Outcome.next.inj hstep).symm

/-- While no tick comes, the counter of samples goes up by one a step. -/
theorem EndlessRun.tickDraws_add {n : Nat} (hnone : ∀ m, n ≤ m → (r m).tickDue = false) (k : Nat) :
    (r (n + k)).tickDraws = (r n).tickDraws + k := by
  induction k with
  | zero => rfl
  | succ k ih =>
    have hdraws := (hr.cycled (hnone (n + k) (Nat.le_add_right n k))).tickDraws
    rw [ih] at hdraws
    exact hdraws

/-- Fairness of the schedule carries over to the run. -/
theorem EndlessRun.exists_tickDue (n : Nat) : ∃ m, n ≤ m ∧ (r m).tickDue = true := by
  by_contra! hno
  have hnone : ∀ m, n ≤ m → (r m).tickDue = false := fun m hm => eq_false_of_ne_true (hno m hm)
  obtain ⟨d, hd, hup⟩ := tick_fair (r (n + 1)).tickDraws
  obtain ⟨k, rfl⟩ := Nat.exists_eq_add_of_le hd
  have hdraws := hr.tickDraws_add (n := n + 1) (fun m hm => hnone m (by omega)) k
  have hfsm : (r (n + 1 + k)).fsm = .fetch := by
    have hcycled := hr.cycled (hnone (n + k) (by omega))
    rw [show n + 1 + k = n + k + 1 by omega]
    exact hcycled.fsm
  have hcycled := hr.cycled (hnone (n + 1 + k) (by omega))
  have hdue : (r (n + 1 + k + 1)).tickDue = true :=
    (State.tickDue_iff _).2 ⟨hcycled.fsm, hr.runEn _, hcycled.ticked hfsm,
      by rw [hcycled.tickStrobe, hdraws, hup]⟩
  rw [hnone _ (by omega)] at hdue
  cases hdue

/-- A timer that ticks alone change, from step k on, reaches zero: it never goes up, and each tick takes one off. -/
theorem EndlessRun.timer_reaches_zero {timer : State → Byte} (htimer : ∀ s, timer s.tick = countDown (timer s))
    (k : Nat) (hkeep : ∀ n, k ≤ n → (r n).tickDue = false → timer (r (n + 1)) = timer (r n)) :
    ∃ m, k ≤ m ∧ timer (r m) = 0 := by
  have hstep : ∀ n, k ≤ n → (timer (r (n + 1))).toNat ≤ (timer (r n)).toNat := by
    intro n hn
    cases htick : (r n).tickDue with
    | false => rw [hkeep n hn htick]
    | true =>
      rw [hr.tick htick, htimer, toNat_countDown]
      exact Nat.sub_le _ _
  induction hv : (timer (r k)).toNat using Nat.strong_induction_on generalizing k with
  | _ v ih =>
    obtain ⟨m, hkm, htick⟩ := hr.exists_tickDue k
    have hle : (timer (r m)).toNat ≤ v := by
      rw [← hv]
      exact Nat.le_induction le_rfl (fun n hn h => (hstep n hn).trans h) m hkm
    have hnext : (timer (r (m + 1))).toNat = (timer (r m)).toNat - 1 := by
      rw [hr.tick htick, htimer, toNat_countDown]
    by_cases hzero : timer (r m) = 0
    · exact ⟨m, hkm, hzero⟩
    · have hpos : 0 < (timer (r m)).toNat := Nat.pos_of_ne_zero fun e => hzero (BitVec.eq_of_toNat_eq e)
      obtain ⟨j, hj, hj0⟩ := ih _ (by omega) (m + 1) (fun n hn => hkeep n (by omega))
        (fun n hn => hstep n (by omega)) rfl
      exact ⟨j, by omega, hj0⟩

end EndlessRun

/-- Settles O23: a due tick comes again, and the step there is the tick. -/
theorem ticksComeForever : Obligations.TicksComeForever := by
  intro r hr n
  obtain ⟨m, hm, htick⟩ := hr.exists_tickDue n
  exact ⟨m, hm, htick, step_of_tickDue _ htick⟩

/-- Settles O24: a tick counts either timer down. -/
theorem timersReachZero : Obligations.TimersReachZero := fun _ k hr =>
  ⟨hr.timer_reaches_zero (timer := State.dt) (fun _ => rfl) k,
    hr.timer_reaches_zero (timer := State.st) (fun _ => rfl) k⟩

end Sys2Proof.Machine

/-! ### Memory: effective addresses and the canonical form (20_memory.md) -/

namespace Sys2Proof.Machine

/-- Settles O27: the three cases are those of the addressing policy. -/
theorem effectiveAddress : Obligations.EffectiveAddress := by
  refine fun s a => ⟨s.ea_wrap a, fun h ha => ?_, fun h ha => ?_⟩
  · rw [s.ea_fault a h, if_pos ha]
  · rw [s.ea_fault a h, if_neg (Nat.not_lt.2 ha)]

theorem Memory.sorted_iff_pairwise (m : List Host.Cell) :
    Memory.sorted m = true ↔ m.Pairwise fun c d => c.1 < d.1 := by
  induction m with
  | nil => simp [Memory.sorted]
  | cons c m ih => rw [Memory.sorted_cons, List.pairwise_cons, ih]

/-- A sorted list holds exactly the cells it looks up. -/
theorem Memory.mem_iff_lookup {m : List Host.Cell} (h : Memory.sorted m = true) (a : Nat) (b : Byte) :
    (a, b) ∈ m ↔ Memory.lookup m a = some b := by
  induction m with
  | nil => simp [Memory.lookup]
  | cons c m ih =>
    obtain ⟨k, d⟩ := c
    obtain ⟨habove, hm⟩ := (Memory.sorted_cons k d m).1 h
    by_cases hk : k = a
    · subst hk
      have hnot : (k, b) ∉ m := fun hin => Nat.lt_irrefl k (habove _ hin)
      simp [Memory.lookup, hnot, eq_comm]
    · simp [Memory.lookup, hk, Ne.symm hk, ih hm]

/-- The cells of a canonical memory are the bytes that read otherwise than unlisted. -/
theorem Memory.mem_iff_read {font : Vector Byte Config.fontSize} {m : List Host.Cell} (h : Memory.wf font m = true)
    (a : Nat) (b : Byte) : (a, b) ∈ m ↔ Memory.read font m a = b ∧ b ≠ Memory.unlisted font a := by
  obtain ⟨hsorted, hall⟩ := (Memory.wf_iff font m).1 h
  constructor
  · intro hin
    have hlookup := (Memory.mem_iff_lookup hsorted a b).1 hin
    exact ⟨by rw [Memory.read, hlookup, Option.getD_some], (hall _ hin).2⟩
  · rintro ⟨hread, hne⟩
    rw [Memory.mem_iff_lookup hsorted]
    cases hlookup : Memory.lookup m a with
    | none =>
      rw [Memory.read, hlookup, Option.getD_none] at hread
      exact absurd hread.symm hne
    | some d =>
      rw [Memory.read, hlookup, Option.getD_some] at hread
      rw [hread]

/-- Settles O28: the reads tell which cells a canonical memory holds, and their order is that of the addresses. -/
theorem memoriesThatReadAlikeAreEqual : Obligations.MemoriesThatReadAlikeAreEqual := by
  intro font m m' h h' hread
  have hpairwise := (Memory.sorted_iff_pairwise m).1 ((Memory.wf_iff font m).1 h).1
  have hpairwise' := (Memory.sorted_iff_pairwise m').1 ((Memory.wf_iff font m').1 h').1
  have : Std.Irrefl fun c d : Host.Cell => c.1 < d.1 := ⟨fun c => Nat.lt_irrefl c.1⟩
  have : Std.Antisymm fun c d : Host.Cell => c.1 < d.1 := ⟨fun _ _ h h' => absurd h (Nat.lt_asymm h')⟩
  refine hpairwise.eq_of_mem_iff hpairwise' fun {c} => ?_
  rw [Memory.mem_iff_read h, Memory.mem_iff_read h', hread]

end Sys2Proof.Machine

/-! ### Arithmetic, logic and the jump with offset (41_control_flow.md, 42_alu.md) -/

namespace Sys2Proof.Machine

@[simp] theorem toNat_zextByte (b : Byte) : (zextByte b).toNat = b.toNat :=
  BitVec.toNat_setWidth_of_le (by decide)

/-- The register of BNNN, with the top nibble of NNN as a number (R117). -/
theorem offsetRegister_eq (s : State) (nnn : Addr12) : s.offsetRegister nnn =
    if s.launch.legacyMode then 0 else BitVec.ofNat 4 (nnn.toNat / 256) := by
  have htop : nnn.extractLsb' 8 4 = BitVec.ofNat 4 (nnn.toNat / 256) := by
    apply BitVec.eq_of_toNat_eq
    simp [BitVec.extractLsb'_toNat, Nat.shiftRight_eq_div_pow]
  rw [State.offsetRegister, htop]
  rfl

/-- Settles O36: the instruction is one write of PC, with a sum of 16 bits. -/
theorem jpOffsetAddsARegister : Obligations.JpOffsetAddsARegister := by
  refine fun nnn s => ⟨decode_encode (.jpOffset nnn) rfl, _, rfl, ?_, frame_setPc s _⟩
  rw [State.setPc_pc, BitVec.toNat_add, toNat_zextAddr, toNat_zextByte, offsetRegister_eq]

/-- An instruction whose whole effect is the write of one register, its value given bit by bit. -/
theorem writesBits_of_exec {i : Instr} {s : State} {x : Reg} {b : Byte} {bit : Nat → Bool}
    (h : exec i s = .next (s.setV x b)) (hb : ∀ k, b.getLsbD k = bit k) :
    ∃ t, exec i s = .next t ∧ (∀ k < 8, (t.getV x).getLsbD k = bit k) ∧
      (∀ r, r ≠ x → t.getV r = s.getV r) ∧ Frame [.v] s t := by
  obtain ⟨t, ht, hx, hframe⟩ := writesRegister_of_exec h
  exact ⟨t, ht, fun k _ => by rw [hx, hb], hframe⟩

/-- Settles O40: each instruction is one write of V[X], with the value combined bit by bit. -/
theorem logicOperations : Obligations.LogicOperations := fun x y _ =>
  ⟨writesBits_of_exec (i := .orReg x y) rfl fun _ => BitVec.getLsbD_or,
    writesBits_of_exec (i := .andReg x y) rfl fun _ => BitVec.getLsbD_and,
    writesBits_of_exec (i := .xorReg x y) rfl fun _ => BitVec.getLsbD_xor⟩

/-- The values and the frame of an instruction whose whole effect is a result and then a flag. -/
theorem writesResultFlag_of_exec {i : Instr} {s : State} {x : Reg} {b : Byte} {c : Bool}
    (h : exec i s = .next (s.setResultFlag x b c)) :
    ∃ t, exec i s = .next t ∧ (x ≠ regVF → t.getV x = b) ∧ t.getV regVF = boolByte c ∧
      (∀ r, r ≠ x → r ≠ regVF → t.getV r = s.getV r) ∧ Frame [.v] s t := by
  refine ⟨_, h, fun hx => ?_, ?_, fun r => s.getV_setResultFlag_of_ne b c, frame_setResultFlag s x b c⟩
  · rw [State.getV_setResultFlag, if_neg hx, if_pos rfl]
  · rw [State.getV_setResultFlag, if_pos rfl]

theorem boolByte_decide (p : Prop) [Decidable p] : boolByte (decide p) = if p then 1 else 0 := by
  simp [boolByte]

/-- Settles O41: the result is the sum of two bytes, the flag the carry. -/
theorem addRegSetsCarry : Obligations.AddRegSetsCarry := by
  intro x y s
  obtain ⟨t, ht, hresult, hflag, hframe⟩ := writesResultFlag_of_exec (i := .addReg x y) (s := s) rfl
  refine ⟨decode_encode (.addReg x y) rfl, t, ht, fun hx => ?_, ?_, hframe⟩
  · rw [hresult hx, BitVec.toNat_add]
  · rw [hflag, carryFlag, boolByte_decide]

theorem toNat_sub_byte (a b : Byte) : (a - b).toNat = (a.toNat + 256 - b.toNat) % 256 := by
  bv_omega

/-- What a subtraction writes (R137, R139). -/
theorem subtracts_of_exec {i : Instr} {s : State} {x : Reg} {a b : Byte}
    (h : exec i s = .next (s.setResultFlag x (a - b) (strictGreaterFlag a b))) :
    ∃ t, exec i s = .next t ∧ (x ≠ regVF → (t.getV x).toNat = (a.toNat + 256 - b.toNat) % 256) ∧
      t.getV regVF = (if a.toNat > b.toNat then 1 else 0) ∧
      (∀ r, r ≠ x → r ≠ regVF → t.getV r = s.getV r) ∧ Frame [.v] s t := by
  obtain ⟨t, ht, hresult, hflag, hframe⟩ := writesResultFlag_of_exec h
  refine ⟨t, ht, fun hx => ?_, ?_, hframe⟩
  · rw [hresult hx, toNat_sub_byte]
  · rw [hflag, strictGreaterFlag, boolByte_decide]

/-- Settles O42: SUBN is the subtraction with the operands exchanged. -/
theorem subtractionsSetTheStrictFlag : Obligations.SubtractionsSetTheStrictFlag := fun x y _ =>
  ⟨subtracts_of_exec (i := .subReg x y) rfl, subtracts_of_exec (i := .subnReg x y) rfl⟩

theorem toNat_shiftedOutRight (v : Byte) : (boolByte (shiftedOutRight v)).toNat = v.toNat % 2 := by
  rw [shiftedOutRight, BitVec.getLsbD, Nat.testBit_zero, boolByte_decide]
  split_ifs with hbit
  · exact hbit.symm
  · exact (Nat.mod_two_ne_one.1 hbit).symm

theorem toNat_shiftedOutLeft (v : Byte) : (boolByte (shiftedOutLeft v)).toNat = v.toNat / 128 := by
  have hhigh : v.toNat / 128 % 2 = v.toNat / 128 := Nat.mod_eq_of_lt (by omega)
  rw [shiftedOutLeft, BitVec.getLsbD, Nat.testBit_eq_decide_div_mod_eq, boolByte_decide]
  split_ifs with hbit
  · exact hbit.symm.trans hhigh
  · exact (Nat.mod_two_ne_one.1 hbit).symm.trans hhigh

/-- Settles O43: in both modes the shifted value is the shift operand. -/
theorem shiftsMoveABitIntoVF : Obligations.ShiftsMoveABitIntoVF := by
  intro x y s
  obtain ⟨t, ht, htx, htflag, htframe⟩ := writesResultFlag_of_exec (i := .shr x y) (s := s) rfl
  obtain ⟨u, hu, hux, huflag, huframe⟩ := writesResultFlag_of_exec (i := .shl x y) (s := s) rfl
  refine ⟨⟨t, ht, fun hx => ?_, ?_, htframe⟩, ⟨u, hu, fun hx => ?_, ?_, huframe⟩⟩
  · rw [htx hx, BitVec.toNat_ushiftRight, Nat.shiftRight_eq_div_pow]
    rfl
  · rw [htflag, toNat_shiftedOutRight]
    rfl
  · rw [hux hx, BitVec.toNat_shiftLeft, Nat.shiftLeft_eq]
    rfl
  · rw [huflag, toNat_shiftedOutLeft]
    rfl

/-- Settles O44: the draw is the counter's next, and the register is written after it. -/
theorem rndMasksAFreshDraw : Obligations.RndMasksAFreshDraw := by
  refine fun x kk s => ⟨decode_encode (.rnd x kk) rfl, _, rfl, fun k _ => ?_, rfl,
    fun r => s.drawRnd.2.getV_setV_of_ne x r _, frame_drawRnd_setV s x _⟩
  rw [State.getV_setV_self, State.drawRnd_fst, BitVec.getLsbD_and]

end Sys2Proof.Machine

/-! ### Drawing a sprite (43_display.md) -/

namespace Sys2Proof.Machine

/-- Settles O46: the drawing loop said cell by cell. -/
theorem drwXorsTheClippedSprite : Obligations.DrwXorsTheClippedSprite := by
  refine fun x y n s => ⟨decode_encode (.drw x y n) rfl, fun h => ⟨_, exec_drw_of_reaches x y n s h,
    fun r c hr hc => cell_drawSprite s x y n hr hc, ?_, fun r hr => State.getV_setFlag_of_ne _ _ hr,
    frame_setFb_setFlag s _ _⟩⟩
  rw [State.getV_setFlag_regVF]
  exact (em _).symm.imp boolByte_eq_zero_of_ne_one id

/-- A draw changes nothing that says which cells the same sprite covers, if no coordinate register is VF. -/
theorem spriteCovers_setFb_setFlag {x y : Reg} (hx : x ≠ regVF) (hy : y ≠ regVF) (n : Nibble) (s : State)
    (g : Framebuffer) (hit : Bool) (r c : Nat) :
    ((s.setFb g).setFlag hit).spriteCovers x y n r c = s.spriteCovers x y n r c := by
  simp only [State.spriteCovers, State.getV_setFlag_of_ne _ _ hx, State.getV_setFlag_of_ne _ _ hy,
    State.getV_setFb, State.byteAt_setFlag, State.byteAt_setFb, State.setFlag_i, State.setFb_i]

theorem reaches_setFb_setFlag {y : Reg} (hy : y ≠ regVF) {n : Nibble} {s : State}
    (h : s.reaches s.i.toNat (s.spriteRows y n)) (g : Framebuffer) (hit : Bool) :
    ((s.setFb g).setFlag hit).reaches ((s.setFb g).setFlag hit).i.toNat
      (((s.setFb g).setFlag hit).spriteRows y n) := by
  rw [State.spriteRows, State.getV_setFlag_of_ne _ _ hy]
  exact h

/-- Settles O48: the second draw covers the same cells, and flipping a cell twice restores it. -/
theorem drawingTwiceRestores : Obligations.DrawingTwiceRestores := by
  intro x y n s hx hy h
  refine ⟨_, _, exec_drw_of_reaches x y n s h,
    exec_drw_of_reaches x y n _ (reaches_setFb_setFlag hy h _ _), ?_, ?_⟩
  · refine framebuffer_ext _ _ fun r c hr hc => ?_
    rw [State.setFlag_fb, State.setFb_fb, cell_drawSprite _ x y n hr hc, spriteCovers_setFb_setFlag hx hy,
      State.setFlag_fb, State.setFb_fb, cell_drawSprite s x y n hr hc,
      Bool.xor_assoc, Bool.xor_self, Bool.xor_false]
  · rw [State.getV_setFlag_regVF, boolByte_eq_one_iff, hit_drawSprite_iff]
    refine exists_congr fun r => exists_congr fun c => and_congr_right fun hr => and_congr_right fun hc => ?_
    rw [spriteCovers_setFb_setFlag hx hy, State.setFlag_fb, State.setFb_fb, cell_drawSprite s x y n hr hc]
    cases s.fb.cell r c <;> simp

end Sys2Proof.Machine

/-! ### Timers, I and blocks of memory (44_index_timer_memory.md) -/

namespace Sys2Proof.Machine

/-- Settles O52: FX07 reads DT as it stands, and a tick counts it down. -/
theorem ldDtVxSetsTheDelayTimer : Obligations.LdDtVxSetsTheDelayTimer := by
  refine fun x s => ⟨decode_encode (.ldDtVx x) rfl, s.setDt (s.getV x), rfl, rfl, frame_setDt s _,
    fun z => ⟨_, rfl, State.getV_setV_self _ _ _⟩, fun z => ⟨_, rfl, ?_⟩⟩
  rw [State.getV_setV_self, State.tick_dt, State.setDt_dt, toNat_countDown]

/-- Settles O54, by whether VF is written. -/
theorem addIKeepsSixteenBits : Obligations.AddIKeepsSixteenBits := by
  refine fun x s => ⟨decode_encode (.addI x) rfl, ?_⟩
  have hsum : (s.i + zextByte (s.getV x)).toNat = (s.i.toNat + (s.getV x).toNat) % 65536 := by
    rw [BitVec.toNat_add, toNat_zextByte]
  by_cases hov : s.addIOverflows x
  · refine ⟨_, exec_addI_of_overflows hov, hsum, ?_, fun r hr => State.getV_setFlag_of_ne _ _ hr,
      frame_setI_setFlag s _ _⟩
    rw [State.getV_setFlag_regVF, if_pos hov]
    rfl
  · refine ⟨_, exec_addI_of_not_overflows hov, hsum, ?_, fun r _ => rfl, (frame_setI s _).mono (by simp)⟩
    rw [State.getV_setI, if_neg hov]

/-- Each byte of a reached block is reached. -/
theorem reaches_add_one {s : State} {a n k : Nat} (h : s.reaches a n) (hk : k < n) : s.reaches (a + k) 1 :=
  h.imp_right fun hfits => .inr (by omega)

/-- After at most 4096 bytes are stored from a on, each reads at its effective address, and every other byte as
before. -/
theorem byteAt_setMem_memoryAfter {s : State} (hwf : Memory.wf s.launch.fontTable s.mem = true) (a : Nat)
    {bs : List Byte} (hlen : bs.length ≤ 4096) (hreach : s.reaches a bs.length) :
    (∀ k p (hk : k < bs.length), s.ea (a + k) = some p →
      (s.setMem (memoryAfter s.launch.fontTable s.mem a bs)).byteAt p = bs[k]) ∧
    ∀ p, (∀ k < bs.length, s.ea (a + k) ≠ some p) →
      (s.setMem (memoryAfter s.launch.fontTable s.mem a bs)).byteAt p = s.byteAt p := by
  have hread := fun p => read_memoryAfter s.launch.fontTable bs s.mem a p hwf hlen
  refine ⟨fun k p hk hp => (hread p).1 k hk (s.ea_eq_some _ _ hp), fun p hp => (hread p).2 fun k hk e => ?_⟩
  exact hp k hk (by rw [s.ea_of_reaches _ (reaches_add_one hreach hk), e])

/-- Settles O56: the three digits are stored in turn. -/
theorem ldBStoresDecimalDigits : Obligations.LdBStoresDecimalDigits := by
  intro x s hwf hreach
  obtain ⟨hstored, hother⟩ := byteAt_setMem_memoryAfter hwf s.i.toNat (bs := bcdDigits (s.getV x))
    (by decide : 3 ≤ 4096) hreach
  have hv := (s.getV x).isLt
  refine ⟨decode_encode (.ldB x) rfl, _, exec_ldB_of_reaches x s hreach, fun p hp => ?_, fun p hp => ?_,
    fun p hp => ?_, hother, frame_setMem s _⟩
  · rw [hstored 0 p (by decide : 0 < 3) hp]
    simp [bcdDigits]; omega
  · rw [hstored 1 p (by decide : 1 < 3) hp]
    simp [bcdDigits]; omega
  · rw [hstored 2 p (by decide : 2 < 3) hp]
    simp [bcdDigits]; omega

/-- I after a register block, as a number (R187, R188). -/
theorem toNat_bumpI_i (s : State) (x : Reg) : (s.bumpI x).i.toNat =
    if s.launch.legacyMode then (s.i.toNat + x.toNat + 1) % 65536 else s.i.toNat := by
  rw [bumpI_eq_setI, State.setI_i, apply_ite BitVec.toNat, BitVec.toNat_add, BitVec.toNat_ofNat, Nat.add_mod_mod,
    blockSize, Nat.add_assoc]

@[simp] theorem State.byteAt_bumpI (s : State) (x : Reg) (a : Nat) : (s.bumpI x).byteAt a = s.byteAt a := by
  rw [bumpI_eq_setI, State.byteAt_setI]

/-- Settles O57: the registers are stored in turn, and I is moved on after them. -/
theorem storeRegsStoresTheBlock : Obligations.StoreRegsStoresTheBlock := by
  intro x s hwf hreach
  have hlen : (s.block (blockSize x)).length = x.toNat + 1 := length_block _ _
  obtain ⟨hstored, hother⟩ := byteAt_setMem_memoryAfter hwf s.i.toNat (bs := s.block (blockSize x))
    (by omega) (by rwa [hlen])
  refine ⟨decode_encode (.storeRegs x) rfl, _, exec_storeRegs_of_reaches x s hreach, fun r p hr hp => ?_,
    fun p hp => ?_, toNat_bumpI_i _ x, frame_setMem_bumpI s _ x⟩
  · rw [State.byteAt_bumpI, hstored r.toNat p (by omega) hp, getElem_block, BitVec.ofNat_toNat, BitVec.setWidth_eq]
  · rw [State.byteAt_bumpI]
    exact hother p fun k hk => hp k (by omega)

@[simp] theorem State.loadBlock_i (s : State) (k : Nat) (bs : List Byte) : (s.loadBlock k bs).i = s.i := by
  rw [loadBlock_eq]

@[simp] theorem State.loadBlock_launch (s : State) (k : Nat) (bs : List Byte) :
    (s.loadBlock k bs).launch = s.launch := by
  rw [loadBlock_eq]

/-- Settles O58: the registers are loaded in turn, and I is moved on after them. -/
theorem loadRegsLoadsTheBlock : Obligations.LoadRegsLoadsTheBlock := by
  intro x s hreach
  refine ⟨decode_encode (.loadRegs x) rfl, _, exec_loadRegs_of_reaches x s hreach, fun r p hr hp => ?_,
    fun r hr => ?_, ?_, frame_loadBlock_bumpI s _ x⟩
  · rw [State.getV_bumpI, getV_loadBlock _ _ _ _ (by rw [length_blockBytes]; omega),
      dif_pos (by rw [length_blockBytes]; omega), getElem_blockBytes, s.ea_eq_some _ _ hp, Nat.sub_zero]
  · rw [State.getV_bumpI, s.getV_loadBlock_of_lt hr]
  · rw [toNat_bumpI_i, State.loadBlock_launch, State.loadBlock_i]

end Sys2Proof.Machine
